-- ==== Sys2Proof/Word.lean ====
section
/-! DEFINITION. The words of the block: command words, transport bytes and binary32 registers (R8, R13, R49, R63). -/

namespace Sys2Proof

/-- A command word `W`: 64 bits, bit 63 the most significant (R13, R63). -/
abbrev Word := BitVec 64

/-- One byte of the host's transport (R49). -/
abbrev Byte := BitVec 8

/-- An IEEE 754 binary32 value, held as its 32 bits: sign 31, exponent 30..23, fraction 22..0 (R8, R49). -/
abbrev F32 := BitVec 32

end Sys2Proof
end

