-- ==== Sys2Proof/Syntax.lean ====
section
/-! DEFINITION. The commands (R63 to R67): one constructor per row of spec/opcode_table.json, with the operand fields of
R66. An operand may hold any value its field can: a value outside the legal set is a rejection when the command is
performed (R71), not an encoding that does not exist. -/

namespace Sys2Proof

/-- A decoded command word. -/
inductive Instr where
  /-- NOP (R76). -/
  | nop
  /-- WRITE_PARAM PID, VAL (R77). -/
  | writeParam (pid : BitVec 16) (val : F32)
  /-- NOTE_ON VOICE, NOTE, VEL (R78). -/
  | noteOn (voice note vel : BitVec 8)
  /-- NOTE_OFF VOICE (R79). -/
  | noteOff (voice : BitVec 8)
  /-- STEAL VOICE, NOTE, VEL (R80). -/
  | steal (voice note vel : BitVec 8)
  /-- SLOT_ROUTE SLOT, EN, SRC, TGT (R81). -/
  | slotRoute (slot : BitVec 8) (en : Bool) (src : BitVec 8) (tgt : BitVec 16)
  /-- SLOT_INTENSITY SLOT, VAL (R82). -/
  | slotIntensity (slot : BitVec 8) (val : F32)
  /-- SET_GSRC SRC, VAL (R83). -/
  | setGsrc (src : BitVec 8) (val : F32)
  /-- SET_LSRC VOICE, SRC, VAL (R84). -/
  | setLsrc (voice src : BitVec 8) (val : F32)
deriving DecidableEq, Repr

/-- The causes of a rejection (R138). -/
inductive Cause where
  | badOpcode
  | rsvNonzero
  | badVoice
  | badParam
  | badValue
  | badSlot
  | badSource
  | badTarget
  | scope
  | badNote
  | incomplete
deriving DecidableEq, Repr

end Sys2Proof
end

