-- ==== Sys2Proof/Decode.lean ====
section
/-! DEFINITION. Command words (R63 to R71): the opcode map and its operand fields, the encoder, and the byte transport
(R49, R50). -/

namespace Sys2Proof

/-- `W[63:56]`, the opcode (R64). -/
def opcodeOf (w : Word) : BitVec 8 := w.extractLsb' 56 8

/-- `W[55:48]`: VOICE, SLOT, or SRC of format GV (R66). -/
def fieldA (w : Word) : BitVec 8 := w.extractLsb' 48 8

/-- `W[47:40]`: NOTE, or SRC of format LV (R66). -/
def fieldB (w : Word) : BitVec 8 := w.extractLsb' 40 8

/-- `W[39:32]`: VEL, or SRC of format SR (R66). -/
def fieldC (w : Word) : BitVec 8 := w.extractLsb' 32 8

/-- `W[55:40]`: PID (R66). -/
def fieldPid (w : Word) : BitVec 16 := w.extractLsb' 40 16

/-- `W[40]`: EN (R66). -/
def fieldEn (w : Word) : Bool := w.getLsbD 40

/-- `W[31:16]`: TGT (R66). -/
def fieldTgt (w : Word) : BitVec 16 := w.extractLsb' 16 16

/-- `W[31:0]`: VAL (R66). -/
def fieldVal (w : Word) : F32 := w.extractLsb' 0 32

/-- A row of the opcode map: `w` is the row's if `w & mask = match` (R67). -/
structure Row where
  mask : Word
  value : Word
deriving DecidableEq, Repr

/-- Whether a word is one of a row (R67). -/
def inRow (r : Row) (w : Word) : Bool := w &&& r.mask == r.value

/-- NOP, format N (R67). -/
abbrev rowNop : Row := ⟨0xFFFFFFFFFFFFFFFF#64, 0x0000000000000000#64⟩
/-- WRITE_PARAM, format P (R67). -/
abbrev rowWriteParam : Row := ⟨0xFF0000FF00000000#64, 0x0100000000000000#64⟩
/-- NOTE_ON, format VN (R67). -/
abbrev rowNoteOn : Row := ⟨0xFF000000FFFFFFFF#64, 0x0200000000000000#64⟩
/-- NOTE_OFF, format V (R67). -/
abbrev rowNoteOff : Row := ⟨0xFF00FFFFFFFFFFFF#64, 0x0300000000000000#64⟩
/-- STEAL, format VN (R67). -/
abbrev rowSteal : Row := ⟨0xFF000000FFFFFFFF#64, 0x0400000000000000#64⟩
/-- SLOT_ROUTE, format SR (R67). -/
abbrev rowSlotRoute : Row := ⟨0xFF00FE000000FFFF#64, 0x0500000000000000#64⟩
/-- SLOT_INTENSITY, format SV (R67). -/
abbrev rowSlotIntensity : Row := ⟨0xFF00FFFF00000000#64, 0x0600000000000000#64⟩
/-- SET_GSRC, format GV (R67). -/
abbrev rowSetGsrc : Row := ⟨0xFF00FFFF00000000#64, 0x0700000000000000#64⟩
/-- SET_LSRC, format LV (R67). -/
abbrev rowSetLsrc : Row := ⟨0xFF0000FF00000000#64, 0x0800000000000000#64⟩

/-- The opcode map (R67). -/
def opcodeMap : List Row :=
  [rowNop, rowWriteParam, rowNoteOn, rowNoteOff, rowSteal, rowSlotRoute, rowSlotIntensity, rowSetGsrc, rowSetLsrc]

/-- The command a word stands for, or the cause it is rejected with (R67, R69, R70, R75): total on all words. -/
def decodeWord (w : Word) : Except Cause Instr :=
  if inRow rowNop w then .ok .nop
  else if inRow rowWriteParam w then .ok (.writeParam (fieldPid w) (fieldVal w))
  else if inRow rowNoteOn w then .ok (.noteOn (fieldA w) (fieldB w) (fieldC w))
  else if inRow rowNoteOff w then .ok (.noteOff (fieldA w))
  else if inRow rowSteal w then .ok (.steal (fieldA w) (fieldB w) (fieldC w))
  else if inRow rowSlotRoute w then .ok (.slotRoute (fieldA w) (fieldEn w) (fieldC w) (fieldTgt w))
  else if inRow rowSlotIntensity w then .ok (.slotIntensity (fieldA w) (fieldVal w))
  else if inRow rowSetGsrc w then .ok (.setGsrc (fieldA w) (fieldVal w))
  else if inRow rowSetLsrc w then .ok (.setLsrc (fieldA w) (fieldB w) (fieldVal w))
  else if 0x09 ≤ (opcodeOf w).toNat then .error .badOpcode
  else .error .rsvNonzero

/-- A field with its bit 0 at bit `lo` of a word (R65). -/
def place {n : Nat} (lo : Nat) (x : BitVec n) : Word := x.setWidth 64 <<< lo

/-- The word of a command: opcode and operand fields in their places, every RSV bit zero (R65, R72). -/
def encode : Instr → Word
  | .nop => place 56 0x00#8
  | .writeParam pid val => place 56 0x01#8 ||| place 40 pid ||| place 0 val
  | .noteOn voice note vel => place 56 0x02#8 ||| place 48 voice ||| place 40 note ||| place 32 vel
  | .noteOff voice => place 56 0x03#8 ||| place 48 voice
  | .steal voice note vel => place 56 0x04#8 ||| place 48 voice ||| place 40 note ||| place 32 vel
  | .slotRoute slot en src tgt =>
    place 56 0x05#8 ||| place 48 slot ||| place 40 (BitVec.ofBool en) ||| place 32 src ||| place 16 tgt
  | .slotIntensity slot val => place 56 0x06#8 ||| place 48 slot ||| place 0 val
  | .setGsrc src val => place 56 0x07#8 ||| place 48 src ||| place 0 val
  | .setLsrc voice src val => place 56 0x08#8 ||| place 48 voice ||| place 40 src ||| place 0 val

/-- The 8 bytes of a word on the transport, least significant first: byte `b` holds `W[8b+7 : 8b]` (R49). -/
def wordBytes (w : Word) : Vector Byte 8 :=
  #v[w.extractLsb' 0 8, w.extractLsb' 8 8, w.extractLsb' 16 8, w.extractLsb' 24 8,
     w.extractLsb' 32 8, w.extractLsb' 40 8, w.extractLsb' 48 8, w.extractLsb' 56 8]

/-- The same bytes as a list. -/
def bytesOfWord (w : Word) : List Byte := (wordBytes w).toList

/-- The word that 8 transport bytes are (R49). -/
def wordOfBytes (bs : Vector Byte 8) : Word :=
  place 0 bs[0] ||| place 8 bs[1] ||| place 16 bs[2] ||| place 24 bs[3] |||
    place 32 bs[4] ||| place 40 bs[5] ||| place 48 bs[6] ||| place 56 bs[7]

/-- The words a stream of bytes holds, in order; fewer than 8 bytes of a word deliver nothing (R49, R50). -/
def wordsOfBytes : List Byte → List Word
  | b0 :: b1 :: b2 :: b3 :: b4 :: b5 :: b6 :: b7 :: rest =>
    wordOfBytes #v[b0, b1, b2, b3, b4, b5, b6, b7] :: wordsOfBytes rest
  | _ => []

/-- The command at the head of a list of transport bytes: none if the bytes hold no word or the word is rejected. -/
def decodeBytes (bs : List Byte) : Option Instr :=
  match wordsOfBytes bs with
  | w :: _ => (decodeWord w).toOption
  | [] => none

/-- The command whose bits, numbered as spec/opcode_table.json numbers them, are `w`: the low `nbits` bits of one 64-bit
word, laid out as its 8 transport bytes and decoded. -/
def decodeTableWord (nbits w : Nat) : Option Instr :=
  decodeBytes (bytesOfWord (BitVec.ofNat 64 (w % 2 ^ nbits)))

end Sys2Proof
end

