-- ==== Sys2Proof/Config.lean ====
section
/-! DEFINITION. What an instance of the block fixes before reset (R6, R7), the configuration functions (R10) and the
free values (93_implementation_defined.md). An opaque constant here has no body: nothing can be proved of its value. -/

namespace Sys2Proof

/-- Voice slots: "exactly 32 Voice slots exist" (R6). -/
abbrev nVoices : Nat := 32
/-- Oscillators per voice (R6). -/
abbrev nOsc : Nat := 3
/-- Filters per voice (R6). -/
abbrev nFilt : Nat := 2
/-- Envelopes per voice (R6). -/
abbrev nEnv : Nat := 3
/-- Local LFO inputs per voice (R6). -/
abbrev nLfoL : Nat := 2
/-- The most unison instances (R6). -/
abbrev uMax : Nat := 7

/-- Which configuration functions an instance has (R10): the reference ones (exact, rounded to nearest), or any others
that keep the laws of R10. -/
inductive MathChoice where
  | reference
  | other
deriving DecidableEq, Repr, Inhabited

/-- The implementation parameters of R6 and the wavetable store of R44 (tables, then frames, then samples; table 0 is
DEFAULT_TABLE). Plain data, fixed before reset (R7, R46). -/
structure Params where
  /-- `FS`: sample rate in Hz. -/
  fs : Nat
  /-- `B`: samples per block. -/
  block : Nat
  /-- `L`: samples per wavetable frame, the same for every table. -/
  frameLen : Nat
  /-- `NSLOTS`: modulation slots, 16 or 20. -/
  nSlots : Nat
  /-- `QCAP`: command queue capacity. -/
  qcap : Nat
  /-- `FADE`: steal fade length in samples. -/
  fadeLen : Nat
  /-- `RES_LIMIT`: resonance scale. -/
  resLimit : F32
  /-- `FC_LIMIT`: cutoff limit as a fraction of `FS`. -/
  fcLimit : F32
  /-- `RELEVANT_ENV`: the envelopes that end a release. -/
  relevantEnv : List (Fin 3)
  /-- `DEFAULT_ROUTING`: reset value of ROUTING. -/
  defaultRouting : Fin 2
  /-- The wavetable store: `NTABLES` tables of `NFRAMES[t]` frames of `L` samples. -/
  tables : List (List (List F32))
  /-- The configuration functions of R10. -/
  math : MathChoice
deriving DecidableEq, Repr, Inhabited

/-- `NTABLES`. -/
def Params.nTables (c : Params) : Nat := c.tables.length

/-- The frames of table `t`; a table that is not loaded has none. -/
def Params.frames (c : Params) (t : Nat) : List (List F32) := (c.tables[t]?).getD []

/-- The admissible instances: the constraints of R6 and R44. Positive binary32 values are ordered as their bits, so
`0 < RES_LIMIT < 1` and (DEDUCED from R116, log entry 2) `0 < FC_LIMIT < 0.5` are comparisons of bits. -/
def Params.wf (c : Params) : Bool :=
  decide (1 ≤ c.fs) && decide (1 ≤ c.block) && decide (2 ≤ c.frameLen) &&
  (decide (c.nSlots = 16) || decide (c.nSlots = 20)) && decide (1 ≤ c.qcap) &&
  decide (0 < c.resLimit.toNat ∧ c.resLimit.toNat < 0x3F800000) &&
  decide (0 < c.fcLimit.toNat ∧ c.fcLimit.toNat < 0x3F000000) &&
  decide (1 ≤ c.tables.length ∧ c.tables.length ≤ 256) &&
  c.tables.all (fun t => decide (1 ≤ t.length) && t.all (fun f => decide (f.length = c.frameLen)))

/-- One admissible instance: the parameters of 95_test_vectors.md. The machine does not run on it unless the opaque
instance below happens to be it; it is here so that an admissible instance exists. -/
def Params.vectors : Params where
  fs := 44100
  block := 4
  frameLen := 4
  nSlots := 16
  qcap := 8
  fadeLen := 220
  resLimit := 0x3F7D70A4#32
  fcLimit := 0x3EFAE148#32
  relevantEnv := [0]
  defaultRouting := 0
  tables := [[[0x00000000#32, 0x3F800000#32, 0x00000000#32, 0xBF800000#32]]]
  math := .reference

/-- Any parameters at all (log entry 1). -/
opaque Config.anyParams : Params

/-- The instance the machine is reset with: any admissible one (R7; log entry 1). -/
def Config.params : Params := if Config.anyParams.wf then Config.anyParams else Params.vectors

/-- Any function for `exp2f` (R10; log entry 3). -/
opaque Config.anyExp2 : F32 → F32
/-- Any function for `tanf` (R10; log entry 3). -/
opaque Config.anyTan : F32 → F32
/-- Any function for `powf` (R10; log entry 3). -/
opaque Config.anyPow : F32 → F32 → F32

/-- Where the datapath leaves a value in a register that may be a NaN: sample `n` of voice `v`'s output, the last output
of oscillator `k` of voice `v` at sample `n`, and coefficient `i` (0 to 4: G, K, A1, A2, A3) of filter `f` of voice `v`. -/
inductive NanSite where
  | out (v n : Nat)
  | last (v k n : Nat)
  | coef (v f i : Nat)
deriving DecidableEq, Repr

/-- Any 32 bits, by block step and place: the payload of a NaN is open (93_implementation_defined.md; log entry 4). -/
opaque Config.anyNan : Nat → NanSite → F32

end Sys2Proof
end

