-- ==== Sys2Proof/Machine/Float.lean ====
section
/-! DEFINITION. Binary32 arithmetic (R8, R9, R11, R12): operands become exact integer counts of `2^-149`, the exact
result is formed, and one rounding to the nearest value, ties to even, narrows it. -/

namespace Sys2Proof.F32

/-- `+0.0`. -/
abbrev zero : F32 := 0x00000000#32
/-- `1.0`. -/
abbrev one : F32 := 0x3F800000#32
/-- `2.0`. -/
abbrev two : F32 := 0x40000000#32
/-- `0.5`. -/
abbrev half : F32 := 0x3F000000#32
/-- `-1.0`. -/
abbrev minusOne : F32 := 0xBF800000#32
/-- `+Inf`. -/
abbrev inf : F32 := 0x7F800000#32
/-- The NaN an operation answers with inside a step. Its payload is never read, and a register that keeps a NaN gets
a free payload instead (`settle`, log entry 4). -/
abbrev nan : F32 := 0x7FC00000#32

/-- The sign bit. -/
def sign (x : F32) : Bool := decide (2 ^ 31 ≤ x.toNat)

/-- The bits below the sign, as a number. -/
def mag (x : F32) : Nat := x.toNat % 2 ^ 31

/-- NaN: exponent all ones, fraction not zero. -/
def isNaN (x : F32) : Bool := decide (0x7F800000 < mag x)

/-- An infinity. -/
def isInf (x : F32) : Bool := decide (mag x = 0x7F800000)

/-- Neither a NaN nor an infinity. -/
def isFinite (x : F32) : Bool := decide (mag x < 0x7F800000)

/-- The binary32 value with this sign and these bits below the sign. -/
def ofMag (neg : Bool) (m : Nat) : F32 := BitVec.ofNat 32 (m + if neg then 2 ^ 31 else 0)

/-- The magnitude of a finite value, counted in units of `2^-149`. -/
def units (x : F32) : Nat :=
  if mag x < 2 ^ 23 then mag x else (2 ^ 23 + mag x % 2 ^ 23) * 2 ^ (mag x / 2 ^ 23 - 1)

/-- A finite value, counted in units of `2^-149`. -/
def toUnits (x : F32) : Int := if sign x then -(units x : Int) else (units x : Int)

/-- The integer nearest to `n / d`, ties to even. -/
def roundHalfEven (n d : Nat) : Nat :=
  if 2 * (n % d) < d then n / d
  else if d < 2 * (n % d) then n / d + 1
  else if n / d % 2 = 0 then n / d else n / d + 1

/-- How many low bits of `n / d` units lie below the last kept place of a 24-bit significand. -/
def dropBits (n d : Nat) : Nat := Nat.log2 (n / d) - 23

/-- The bits below the sign of the binary32 value nearest to `n / d` units of `2^-149`, ties to even; past the largest
finite value, those of infinity (R9). -/
def roundMag (n d : Nat) : Nat :=
  min 0x7F800000 (dropBits n d * 2 ^ 23 + roundHalfEven n (d * 2 ^ dropBits n d))

/-- The value nearest to `n / d` units, with a sign. -/
def ofRatio (neg : Bool) (n d : Nat) : F32 := ofMag neg (roundMag n d)

/-- The value nearest to an integer number of units; an exact zero is `+0.0`. -/
def ofUnits (z : Int) : F32 := ofRatio (decide (z < 0)) z.natAbs 1

/-- `-x`: the sign bit inverted. -/
def neg (x : F32) : F32 := ofMag (!sign x) (mag x)

/-- `a + b` (R9). -/
def add (a b : F32) : F32 :=
  if isNaN a || isNaN b then nan
  else if isInf a then (if isInf b && (sign a != sign b) then nan else a)
  else if isInf b then b
  else if toUnits a + toUnits b = 0 then ofMag (sign a && sign b) 0
  else ofUnits (toUnits a + toUnits b)

/-- `a - b` (R9). -/
def sub (a b : F32) : F32 := add a (neg b)

/-- `a * b` (R9). -/
def mul (a b : F32) : F32 :=
  if isNaN a || isNaN b then nan
  else if isInf a || isInf b then
    (if mag a = 0 ∨ mag b = 0 then nan else ofMag (sign a != sign b) 0x7F800000)
  else ofRatio (sign a != sign b) (units a * units b) (2 ^ 149)

/-- `a / b` (R9). -/
def div (a b : F32) : F32 :=
  if isNaN a || isNaN b then nan
  else if isInf a then (if isInf b then nan else ofMag (sign a != sign b) 0x7F800000)
  else if isInf b then ofMag (sign a != sign b) 0
  else if mag b = 0 then (if mag a = 0 then nan else ofMag (sign a != sign b) 0x7F800000)
  else ofRatio (sign a != sign b) (units a * 2 ^ 149) (units b)

/-- The greatest `r` with `r * r ≤ n` and `r < root + 2^k`, found bit by bit from bit `k - 1` down, when `root` is the
part already found. -/
def isqrtFrom (n : Nat) : Nat → Nat → Nat
  | 0, root => root
  | k + 1, root => isqrtFrom n k (if (root + 2 ^ k) * (root + 2 ^ k) ≤ n then root + 2 ^ k else root)

/-- The integer square root. -/
def isqrt (n : Nat) : Nat := isqrtFrom n (Nat.log2 n / 2 + 1) 0

/-- `sqrt(x)` (R9). The root of `u` units is `sqrt(u * 2^149)` units; every point where the rounding changes is a whole
number of units, so the integer part and one bit for "not exact" below it decide the rounding. -/
def sqrt (x : F32) : F32 :=
  if isNaN x then nan
  else if mag x = 0 then x
  else if sign x then nan
  else if isInf x then x
  else
    let n := units x * 2 ^ 149
    let r := isqrt n
    ofRatio false (2 * r + if r * r = n then 0 else 1) 2

/-- The order of the values that are not NaN, as integers; both zeros have key 0. -/
def key (x : F32) : Int := if sign x then -(mag x : Int) else (mag x : Int)

/-- `a < b`, false if either is a NaN. -/
def lt (a b : F32) : Bool := !isNaN a && !isNaN b && decide (key a < key b)

/-- `a ≤ b`, false if either is a NaN. -/
def le (a b : F32) : Bool := !isNaN a && !isNaN b && decide (key a ≤ key b)

/-- `a = b` as values: the two zeros are equal, a NaN equals nothing. -/
def eqv (a b : F32) : Bool := !isNaN a && !isNaN b && decide (key a = key b)

/-- The smaller of two values; `a` if neither is smaller. -/
def min (a b : F32) : F32 := if lt b a then b else a

/-- `clamp(x, lo, hi)` with its NaN arm (R11). -/
def clamp (x lo hi : F32) : F32 :=
  if isNaN x then lo else if lt x lo then lo else if lt hi x then hi else x

/-- `floor(x)` of a finite value (R12). -/
def floor (x : F32) : Int := toUnits x / 2 ^ 149

/-- `trunc(x)` of a finite value (R12). -/
def trunc (x : F32) : Int := (toUnits x).tdiv (2 ^ 149)

/-- `rne(x)` of a finite value: the nearest integer, ties to even (R12). -/
def rne (x : F32) : Int :=
  if sign x then -(roundHalfEven (units x) (2 ^ 149) : Int) else (roundHalfEven (units x) (2 ^ 149) : Int)

/-- `f32(n)`: the value nearest to an integer (R12). -/
def ofInt (n : Int) : F32 := ofUnits (n * 2 ^ 149)

/-- `f32(n)` of a natural number (R12). -/
def ofNat (n : Nat) : F32 := ofInt n

/-- The NaN a register keeps: any NaN (93_implementation_defined.md; log entry 4). -/
def freeNan (d : Nat) (site : NanSite) : F32 :=
  if isNaN (Config.anyNan d site) then Config.anyNan d site else nan

/-- A datapath value as it is written to a register: a NaN gets a free payload, any other value is kept. -/
def settle (d : Nat) (site : NanSite) (x : F32) : F32 := if isNaN x then freeNan d site else x

end Sys2Proof.F32
end

