-- ==== Sys2Proof/Machine/Vec.lean ====
section
/-! DEFINITION. Maps over the block's fixed-size groups (R16, R100), written over lists so that they evaluate. -/

namespace Sys2Proof.Machine

/-- Apply `f` to each element together with its index, the first having index `i`. -/
def enumMap {α β : Type} (f : Nat → α → β) : Nat → List α → List β
  | _, [] => []
  | i, x :: xs => f i x :: enumMap f (i + 1) xs

/-- `enumMap` keeps the length. -/
theorem length_enumMap {α β : Type} (f : Nat → α → β) (i : Nat) (xs : List α) :
    (enumMap f i xs).length = xs.length := by
  induction xs generalizing i with
  | nil => rfl
  | cons x xs ih => simp [enumMap, ih]

/-- Each element of a group replaced by a function of its index and itself, in ascending index. -/
def vmapIdx {α β : Type} {n : Nat} (f : Nat → α → β) (xs : Vector α n) : Vector β n :=
  ⟨(enumMap f 0 xs.toList).toArray, by simp [length_enumMap]⟩

/-- Each element of a group replaced by a function of itself. -/
def vmap {α β : Type} {n : Nat} (f : α → β) (xs : Vector α n) : Vector β n := vmapIdx (fun _ x => f x) xs

/-- Two groups combined element by element, each pair with its index, in ascending index. -/
def vzipIdx {α β γ : Type} {n : Nat} (f : Nat → α → β → γ) (xs : Vector α n) (ys : Vector β n) : Vector γ n :=
  ⟨(enumMap (fun i xy => f i xy.1 xy.2) 0 (xs.toList.zip ys.toList)).toArray, by simp [length_enumMap]⟩

/-- A group of `n` equal elements. -/
def vconst {α : Type} (n : Nat) (x : α) : Vector α n := ⟨(List.replicate n x).toArray, by simp⟩

end Sys2Proof.Machine
end

