-- ==== Sys2Proof/Machine/Param.lean ====
section
/-! DEFINITION. The parameter map (R20 to R28): identifiers, kinds, ranges, reset values, which parameters may be
modulated, and where each one's registers stand. -/

namespace Sys2Proof.Machine

/-- The parameters of an oscillator, in index order from 0x00 (R23). -/
inductive OscParam where
  | table | level | tune | fine | wavePos | unison | spread | sync | syncLeader | bypass
deriving DecidableEq, Repr

/-- The parameters of a filter, in index order from 0x00 (R24). -/
inductive FltParam where
  | mode | cutoff | resonance
deriving DecidableEq, Repr

/-- The parameters of an envelope, in index order from 0x00 (R25). -/
inductive EnvParam where
  | attack | decay | sustain | release | attackSlope | decaySlope | releaseSlope
deriving DecidableEq, Repr

/-- The global parameters, in index order from 0x00 (R26). -/
inductive GlbParam where
  | routing | volume
deriving DecidableEq, Repr

/-- The valid parameter identifiers (R27): 59 of the 65536. -/
inductive Pid where
  | osc (k : Fin 3) (p : OscParam)
  | flt (f : Fin 2) (p : FltParam)
  | env (e : Fin 3) (p : EnvParam)
  | glb (p : GlbParam)
deriving DecidableEq, Repr

/-- Every oscillator parameter, in index order (R23). -/
def oscParams : List OscParam :=
  [.table, .level, .tune, .fine, .wavePos, .unison, .spread, .sync, .syncLeader, .bypass]

/-- Every filter parameter, in index order (R24). -/
def fltParams : List FltParam := [.mode, .cutoff, .resonance]

/-- Every envelope parameter, in index order (R25). -/
def envParams : List EnvParam :=
  [.attack, .decay, .sustain, .release, .attackSlope, .decaySlope, .releaseSlope]

/-- Every global parameter, in index order (R26). -/
def glbParams : List GlbParam := [.routing, .volume]

/-- The index byte of an oscillator parameter (R23). -/
def oscIdx : OscParam → Nat
  | .table => 0 | .level => 1 | .tune => 2 | .fine => 3 | .wavePos => 4
  | .unison => 5 | .spread => 6 | .sync => 7 | .syncLeader => 8 | .bypass => 9

/-- The index byte of a filter parameter (R24). -/
def fltIdx : FltParam → Nat
  | .mode => 0 | .cutoff => 1 | .resonance => 2

/-- The index byte of an envelope parameter (R25). -/
def envIdx : EnvParam → Nat
  | .attack => 0 | .decay => 1 | .sustain => 2 | .release => 3
  | .attackSlope => 4 | .decaySlope => 5 | .releaseSlope => 6

/-- The index byte of a global parameter (R26). -/
def glbIdx : GlbParam → Nat
  | .routing => 0 | .volume => 1

/-- The 16-bit identifier: kind nibble, instance nibble, index byte (R20). -/
def pidBits : Pid → BitVec 16
  | .osc k p => BitVec.ofNat 16 (0x1000 + 0x100 * k.val + oscIdx p)
  | .flt f p => BitVec.ofNat 16 (0x2000 + 0x100 * f.val + fltIdx p)
  | .env e p => BitVec.ofNat 16 (0x3000 + 0x100 * e.val + envIdx p)
  | .glb p => BitVec.ofNat 16 (0x4000 + glbIdx p)

/-- The parameter an identifier names, if it is valid (R20, R27). -/
def pidOfBits (w : BitVec 16) : Option Pid :=
  let kind := w.toNat / 0x1000
  let inst := w.toNat / 0x100 % 0x10
  let idx := w.toNat % 0x100
  if kind = 1 then
    if h : inst < 3 then (oscParams[idx]?).map (Pid.osc ⟨inst, h⟩) else none
  else if kind = 2 then
    if h : inst < 2 then (fltParams[idx]?).map (Pid.flt ⟨inst, h⟩) else none
  else if kind = 3 then
    if h : inst < 3 then (envParams[idx]?).map (Pid.env ⟨inst, h⟩) else none
  else if kind = 4 then
    if inst = 0 then (glbParams[idx]?).map Pid.glb else none
  else none

/-- Integer parameters hold integral values and are no modulation targets (R22, R28, R136). -/
def isInteger : Pid → Bool
  | .osc _ p =>
    match p with
    | .table | .unison | .sync | .syncLeader | .bypass => true
    | .level | .tune | .fine | .wavePos | .spread => false
  | .flt _ p =>
    match p with
    | .mode => true
    | .cutoff | .resonance => false
  | .env _ _ => false
  | .glb p =>
    match p with
    | .routing => true
    | .volume => false

/-- The 41 parameters a slot may target (R136). -/
def isModulatable (p : Pid) : Bool := !isInteger p

/-- Global parameters have one shared effective value, the others one per voice (R22). -/
def isGlobal : Pid → Bool
  | .glb _ => true
  | .osc _ _ | .flt _ _ | .env _ _ => false

/-- The declared range `(lo, hi)` of a parameter (R23 to R26). -/
def paramRange : Pid → F32 × F32
  | .osc _ p =>
    match p with
    | .table => (0x00000000#32, 0x437F0000#32)      -- 0, 255
    | .level => (0x00000000#32, 0x3F800000#32)      -- 0.0, 1.0
    | .tune => (0xC2100000#32, 0x42100000#32)       -- -36.0, 36.0
    | .fine => (0xC2C80000#32, 0x42C80000#32)       -- -100.0, 100.0
    | .wavePos => (0x00000000#32, 0x3F800000#32)    -- 0.0, 1.0
    | .unison => (0x3F800000#32, 0x40E00000#32)     -- 1, 7
    | .spread => (0x00000000#32, 0x42C80000#32)     -- 0.0, 100.0
    | .sync => (0x00000000#32, 0x3F800000#32)       -- 0, 1
    | .syncLeader => (0x00000000#32, 0x40000000#32) -- 0, 2
    | .bypass => (0x00000000#32, 0x3F800000#32)     -- 0, 1
  | .flt _ p =>
    match p with
    | .mode => (0x00000000#32, 0x40000000#32)       -- 0, 2
    | .cutoff => (0x41A00000#32, 0x469C4000#32)     -- 20.0, 20000.0
    | .resonance => (0x00000000#32, 0x3F800000#32)  -- 0.0, 1.0
  | .env _ p =>
    match p with
    | .attack | .decay | .release => (0x00000000#32, 0x41200000#32)                -- 0.0, 10.0
    | .sustain => (0x00000000#32, 0x3F800000#32)                                   -- 0.0, 1.0
    | .attackSlope | .decaySlope | .releaseSlope => (0x3DCCCCCD#32, 0x41200000#32) -- 0.1, 10.0
  | .glb p =>
    match p with
    | .routing => (0x00000000#32, 0x3F800000#32)    -- 0, 1
    | .volume => (0x00000000#32, 0x3F800000#32)     -- 0.0, 1.0

/-- `Span(pid) = hi - lo`, one subtraction (R128). -/
def paramSpan (p : Pid) : F32 := F32.sub (paramRange p).2 (paramRange p).1

/-- The reset value of a base parameter register (R154). -/
def paramReset (c : Params) : Pid → F32
  | .osc k p =>
    match p with
    | .level => if k = 0 then F32.one else F32.zero
    | .unison => F32.one
    | .table | .tune | .fine | .wavePos | .spread | .sync | .syncLeader | .bypass => F32.zero
  | .flt _ p =>
    match p with
    | .cutoff => 0x469C4000#32
    | .mode | .resonance => F32.zero
  | .env _ p =>
    match p with
    | .attack | .decay | .release => F32.zero
    | .sustain | .attackSlope | .decaySlope | .releaseSlope => F32.one
  | .glb p =>
    match p with
    | .routing => F32.ofNat c.defaultRouting.val
    | .volume => F32.one

/-- Every valid parameter, in the order of its identifiers (R27). -/
def allPids : List Pid :=
  ([0, 1, 2] : List (Fin 3)).flatMap (fun k => oscParams.map (Pid.osc k)) ++
  ([0, 1] : List (Fin 2)).flatMap (fun f => fltParams.map (Pid.flt f)) ++
  ([0, 1, 2] : List (Fin 3)).flatMap (fun e => envParams.map (Pid.env e)) ++
  glbParams.map Pid.glb

/-- The parameters with an effective register in each voice: local and modulatable, 40 of them (R29). -/
def localTargets : List Pid := allPids.filter (fun p => isModulatable p && !isGlobal p)

/-- Where a base parameter register stands among the 59 (R21). -/
def pidIndex : Pid → Fin 59
  | .osc k p => ⟨10 * k.val + oscIdx p, by cases p <;> simp only [oscIdx] <;> omega⟩
  | .flt f p => ⟨30 + 3 * f.val + fltIdx p, by cases p <;> simp only [fltIdx] <;> omega⟩
  | .env e p => ⟨36 + 7 * e.val + envIdx p, by cases p <;> simp only [envIdx] <;> omega⟩
  | .glb p => ⟨57 + glbIdx p, by cases p <;> simp only [glbIdx] <;> omega⟩

/-- Where the effective register of a local modulatable parameter stands among a voice's 40; the others have none (R29). -/
def effIndex : Pid → Option (Fin 40)
  | .osc k p =>
    match p with
    | .level => some ⟨5 * k.val, by omega⟩
    | .tune => some ⟨5 * k.val + 1, by omega⟩
    | .fine => some ⟨5 * k.val + 2, by omega⟩
    | .wavePos => some ⟨5 * k.val + 3, by omega⟩
    | .spread => some ⟨5 * k.val + 4, by omega⟩
    | .table | .unison | .sync | .syncLeader | .bypass => none
  | .flt f p =>
    match p with
    | .cutoff => some ⟨15 + 2 * f.val, by omega⟩
    | .resonance => some ⟨15 + 2 * f.val + 1, by omega⟩
    | .mode => none
  | .env e p => some ⟨19 + 7 * e.val + envIdx p, by cases p <;> simp only [envIdx] <;> omega⟩
  | .glb _ => none

/-- A register for each valid parameter (R21): entry `i` is that of the parameter of index `i`. -/
def paramRegs (f : Pid → F32) : Vector F32 59 := ⟨(allPids.map f).toArray, by simp; rfl⟩

/-- A register for each local modulatable parameter (R29): entry `i` is that of the parameter of index `i`. -/
def effRegs (f : Pid → F32) : Vector F32 40 := ⟨(localTargets.map f).toArray, by simp; rfl⟩

end Sys2Proof.Machine
end

