-- ==== Sys2Proof/Machine/Source.lean ====
section
/-! DEFINITION. The modulation sources (R32): identifiers, scope and ranges. -/

namespace Sys2Proof.Machine

/-- The 14 sources of R32; NONE (0x00) is no source. -/
inductive Source where
  | aftertouch
  | pitchWheel
  | modWheel
  | glfo (i : Fin 2)
  | velocity
  | osc (k : Fin 3)
  | env (e : Fin 3)
  | lfo (i : Fin 2)
deriving DecidableEq, Repr

/-- The 8-bit identifier of a source (R32). -/
def sourceBits : Source → BitVec 8
  | .aftertouch => 0x01#8
  | .pitchWheel => 0x02#8
  | .modWheel => 0x03#8
  | .glfo i => BitVec.ofNat 8 (0x04 + i.val)
  | .velocity => 0x10#8
  | .osc k => BitVec.ofNat 8 (0x11 + k.val)
  | .env e => BitVec.ofNat 8 (0x14 + e.val)
  | .lfo i => BitVec.ofNat 8 (0x18 + i.val)

/-- Every source, in the order of its identifiers (R32). -/
def allSources : List Source :=
  [.aftertouch, .pitchWheel, .modWheel, .glfo 0, .glfo 1, .velocity, .osc 0, .osc 1, .osc 2,
   .env 0, .env 1, .env 2, .lfo 0, .lfo 1]

/-- The source an identifier names; 0x00 and the reserved identifiers name none (R32). -/
def sourceOfBits (w : BitVec 8) : Option Source := allSources.find? (fun s => sourceBits s == w)

/-- Local sources are scoped to a voice, the others are the same for every voice (R32). -/
def isLocalSource : Source → Bool
  | .aftertouch | .pitchWheel | .modWheel | .glfo _ => false
  | .velocity | .osc _ | .env _ | .lfo _ => true

/-- The global source input register an identifier names, 0x01 to 0x05 (R33, R83). -/
def gsrcIndex (w : BitVec 8) : Option (Fin 5) :=
  if h : 1 ≤ w.toNat ∧ w.toNat ≤ 5 then some ⟨w.toNat - 1, by omega⟩ else none

/-- The local source input register an identifier names, 0x18 or 0x19 (R33, R84). -/
def lsrcIndex (w : BitVec 8) : Option (Fin 2) :=
  if w = 0x18#8 then some 0 else if w = 0x19#8 then some 1 else none

/-- The range of a global source input: aftertouch and mod wheel `[0, 1]`, pitch wheel and LFOs `[-1, 1]` (R32). -/
def gsrcRange (i : Fin 5) : F32 × F32 :=
  if i = 0 ∨ i = 2 then (F32.zero, F32.one) else (F32.minusOne, F32.one)

end Sys2Proof.Machine
end

