-- ==== Sys2Proof/Machine/State.lean ====
section
/-! DEFINITION. The architectural state (R17 to R42) as plain data, the reasons a step could stop (there are none, R137),
and the state after reset (R154). -/

namespace Sys2Proof.Machine

/-- The life-cycle stage of a voice (R34). -/
inductive Stage where
  | idle | active | releasing
deriving DecidableEq, Repr

/-- The stage of an envelope (R37). -/
inductive EnvStage where
  | idle | attack | decay | sustain | release
deriving DecidableEq, Repr

/-- An oscillator (R35): the phases of its 7 unison instances and its most recent output. -/
structure Osc where
  ph : Vector F32 7
  last : F32
deriving DecidableEq, Repr

/-- The coefficients of a filter (R36, R112). -/
structure Coefs where
  g : F32
  k : F32
  a1 : F32
  a2 : F32
  a3 : F32
deriving DecidableEq, Repr

/-- The key a filter's coefficients are computed from (R36, R113). -/
structure FltKey where
  mode : Nat
  cutoff : F32
  res : F32
deriving DecidableEq, Repr

/-- A filter (R36): integrator states and the coefficient cache. -/
structure Flt where
  ic1 : F32
  ic2 : F32
  coefs : Coefs
  key : FltKey
  cvalid : Bool
deriving DecidableEq, Repr

/-- An envelope (R37). -/
structure Env where
  stage : EnvStage
  level : F32
  start : F32
  t : Nat
deriving DecidableEq, Repr

/-- Everything the block holds for one voice: life cycle (R34), units (R35 to R37), effective values (R29) and local LFO
inputs (R33). -/
structure Voice where
  stage : Stage
  note : BitVec 7
  vel : BitVec 7
  fade : Nat
  pend : Bool
  pnote : BitVec 7
  pvel : BitVec 7
  osc : Vector Osc 3
  flt : Vector Flt 2
  env : Vector Env 3
  eff : Vector F32 40
  lsrc : Vector F32 2
deriving DecidableEq, Repr

/-- A modulation slot (R31). `none` is identifier 0. -/
structure Slot where
  src : Option Source
  tgt : Option Pid
  en : Bool
  intensity : F32
deriving DecidableEq, Repr

/-- The diagnostic counters and the cause of the last rejection (R38). -/
structure Counters where
  drop : BitVec 32
  err : BitVec 32
  nan : BitVec 32
  fallback : BitVec 32
  block : BitVec 64
  lastErr : BitVec 8
deriving DecidableEq, Repr

/-- The status snapshot (R42). -/
structure Snap where
  cnt : Counters
  status : BitVec 4
  stages : Vector Stage 32
  levels : Vector (Vector F32 3) 32
  active : Nat
  volume : F32
deriving DecidableEq, Repr

/-- A move of the world outside the block (R58, R150): the host pushes a word, as such or as the 8 bytes `bs` of a
transport, of which the first `got` arrive (R49, R50; log entry 16); it reads the snapshot or the outputs; the host audio
clock ticks. -/
inductive HostMove where
  | push (w : Word)
  | transport (bs : Vector Byte 8) (got : Fin 9)
  | readSnap
  | readOut
  | tick
deriving DecidableEq, Repr

/-- The state (R17). `cfg`, `host` and `draw` are the model's own fields: the parameters the instance was made with (R7;
no step changes them; log entry 1), the moves of the outside world still to come, oldest first (log entry 6), and how
many block steps have drawn NaN payloads (log entry 5). -/
structure State where
  cfg : Params
  /-- `P[pid]` (R21). -/
  p : Vector F32 59
  /-- `SLOT[s]` (R31). -/
  slots : List Slot
  /-- `GSRC[0x01..0x05]` (R33). -/
  gsrc : Vector F32 5
  /-- `V[v]`, `OSC[v]`, `FLT[v]`, `ENV[v]`, `EFF[v]`, `LSRC[v]` (R29, R33 to R37). -/
  voices : Vector Voice 32
  /-- `EFFG[0x4001]` (R30). -/
  effVolume : F32
  /-- `CNT` (R38). -/
  cnt : Counters
  /-- `STATUS` (R39). -/
  status : BitVec 4
  /-- `Q`, oldest word first (R40). -/
  q : List Word
  /-- `OUT[v][n]` (R41). -/
  out : Vector (List F32) 32
  /-- `SNAP` (R42). -/
  snap : Snap
  host : List HostMove
  draw : Nat
deriving DecidableEq, Repr

/-- Reasons the machine could stop: none. "The block has no trap, no fault and no halt" (R137). -/
inductive Fault
deriving DecidableEq, Repr

/-- Reasons a command could have no meaning. No word is refused (R137). -/
inductive Refusal where
  /-- An instruction whose arm of `exec` is still rejected by name. Nothing raises it: every arm has its meaning. Safe. -/
  | notModelled (mnemonic : String)
deriving DecidableEq, Repr

/-- What a step answers. -/
abbrev Result := Host.Outcome State Fault Refusal

/-- The reset phases `f32(i) / 7.0` (R35). -/
def resetPhases : Vector F32 7 :=
  vmapIdx (fun i _ => F32.div (F32.ofNat i) (0x40E00000#32)) (vconst 7 ())

/-- An oscillator after reset (R35). -/
def oscReset : Osc := ⟨resetPhases, F32.zero⟩

/-- A filter after reset (R36). The cache contents are unused while `cvalid` is 0; DESIGN CHOICE zero (log entry 8). -/
def fltReset : Flt :=
  ⟨F32.zero, F32.zero, ⟨F32.zero, F32.zero, F32.zero, F32.zero, F32.zero⟩, ⟨0, F32.zero, F32.zero⟩, false⟩

/-- An envelope after reset (R37). -/
def envReset : Env := ⟨.idle, F32.zero, F32.zero, 0⟩

/-- A voice after reset (R154). -/
def voiceReset (c : Params) : Voice where
  stage := .idle
  note := 0
  vel := 0
  fade := 0
  pend := false
  pnote := 0
  pvel := 0
  osc := vconst 3 oscReset
  flt := vconst 2 fltReset
  env := vconst 3 envReset
  eff := effRegs (paramReset c)
  lsrc := vconst 2 F32.zero

/-- A slot after reset (R31). -/
def slotReset : Slot := ⟨none, none, false, F32.zero⟩

/-- The counters after reset (R38). -/
def countersReset : Counters := ⟨0, 0, 0, 0, 0, 0⟩

/-- The snapshot after reset: a copy of the reset values (R42). -/
def snapReset : Snap := ⟨countersReset, 0, vconst 32 .idle, vconst 32 (vconst 3 F32.zero), 0, F32.one⟩

/-- The state of an instance with parameters `c` after reset (R153, R154). -/
def State.resetFor (c : Params) : State where
  cfg := c
  p := paramRegs (paramReset c)
  slots := List.replicate c.nSlots slotReset
  gsrc := vconst 5 F32.zero
  voices := vconst 32 (voiceReset c)
  effVolume := F32.one
  cnt := countersReset
  status := 0
  q := []
  out := vconst 32 (List.replicate c.block F32.zero)
  snap := snapReset
  host := []
  draw := 0

/-- The state after reset (R154), of any admissible instance (log entry 1). -/
def State.reset : State := State.resetFor Config.params

end Sys2Proof.Machine
end

