-- ==== Sys2Proof/Machine/Flags.lean ====
section
/-! DEFINITION. The diagnostic counters, the cause codes and the sticky STATUS bits (R38, R39, R138). -/

namespace Sys2Proof.Machine

/-- The code recorded for a cause (R138). -/
def causeCode : Cause → BitVec 8
  | .badOpcode => 1
  | .rsvNonzero => 2
  | .badVoice => 3
  | .badParam => 4
  | .badValue => 5
  | .badSlot => 6
  | .badSource => 7
  | .badTarget => 8
  | .scope => 9
  | .badNote => 10
  | .incomplete => 11

/-- STATUS bit 0: a queue overflow (R39). -/
abbrev statusOvf : BitVec 4 := 0b0001#4
/-- STATUS bit 1: a rejected command (R39). -/
abbrev statusRej : BitVec 4 := 0b0010#4
/-- STATUS bit 2: a filter reset by the non-finite guard (R39). -/
abbrev statusNanr : BitVec 4 := 0b0100#4
/-- STATUS bit 3: a table fallback (R39). -/
abbrev statusFbk : BitVec 4 := 0b1000#4

/-- Set a sticky STATUS bit; the others keep their values (R39). -/
def setStatus (bit : BitVec 4) (s : State) : State := { s with status := s.status ||| bit }

/-- `count(CNT.DROP); STATUS.OVF <- 1` (R54). -/
def countDrop (s : State) : State := setStatus statusOvf { s with cnt := { s.cnt with drop := s.cnt.drop + 1 } }

/-- `count(CNT.FALLBACK); STATUS.FBK <- 1` (R106). -/
def countFallback (s : State) : State :=
  setStatus statusFbk { s with cnt := { s.cnt with fallback := s.cnt.fallback + 1 } }

/-- `count(CNT.NAN); STATUS.NANR <- 1`, once for each of `n` filters reset in one block (R117). -/
def countNans (n : Nat) (s : State) : State :=
  if n = 0 then s
  else setStatus statusNanr { s with cnt := { s.cnt with nan := s.cnt.nan + BitVec.ofNat 32 n } }

/-- `count64(CNT.BLOCK)` (R91). -/
def countBlock (s : State) : State := { s with cnt := { s.cnt with block := s.cnt.block + 1 } }

end Sys2Proof.Machine
end

