-- ==== Sys2Proof/Machine/Ops.lean ====
section
/-! DEFINITION. The named operations on registers and the queue, and the one shared form of taking an exception: on this
block that is a rejection (R139, R143); there is no return from it (R144). -/

namespace Sys2Proof.Machine

/-- `P[pid]` (R21). -/
def readParam (p : Vector F32 59) (pid : Pid) : F32 := p[(pidIndex pid).val]

/-- `P[pid] <- x` (R21). -/
def writeParamReg (pid : Pid) (x : F32) (s : State) : State := { s with p := s.p.set (pidIndex pid).val x }

/-- An integer parameter as the datapath reads it: `trunc(P[pid])` (R28). -/
def intParam (p : Vector F32 59) (pid : Pid) : Nat := (F32.trunc (readParam p pid)).toNat

/-- `EFF[v][pid]` of a voice; a local parameter that is not modulatable reads `P[pid]` (R29). -/
def readEff (p : Vector F32 59) (vc : Voice) (pid : Pid) : F32 :=
  match effIndex pid with
  | some i => vc.eff[i.val]
  | none => readParam p pid

/-- `EFFG[pid]`: VOLUME has the one global effective register, ROUTING reads `P` (R30). -/
def readEffGlobal (s : State) : GlbParam → F32
  | .volume => s.effVolume
  | .routing => readParam s.p (.glb .routing)

/-- `GSRC[src] <- x` (R33). -/
def writeGsrc (i : Fin 5) (x : F32) (s : State) : State := { s with gsrc := s.gsrc.set i.val x }

/-- Replace voice `v` by a function of itself; the other voices are untouched. -/
def updateVoice (v : Fin 32) (f : Voice → Voice) (s : State) : State :=
  { s with voices := s.voices.set v.val (f s.voices[v.val]) }

/-- Replace slot `i` by a function of itself; the other slots are untouched (R31). -/
def updateSlot (i : Nat) (f : Slot → Slot) (s : State) : State := { s with slots := s.slots.modify i f }

/-- `raise Reject(c)`: count the rejection, keep its cause, set the flag; nothing else changes (R139). -/
def reject (c : Cause) (s : State) : State :=
  setStatus statusRej { s with cnt := { s.cnt with err := s.cnt.err + 1, lastErr := causeCode c } }

/-- `QueuePush(W)`: into a full queue, the oldest word is discarded and counted (R54). -/
def queuePush (w : Word) (s : State) : State :=
  if s.q.length < s.cfg.qcap then { s with q := s.q ++ [w] }
  else countDrop { s with q := s.q.tail ++ [w] }

/-- The first `got` of a word's 8 bytes arrive over the host's transport: all 8 are one push, fewer deliver no command
(R49, R50). -/
def queueTransport (bs : Vector Byte 8) (got : Fin 9) (s : State) : State :=
  if got = 8 then queuePush (wordOfBytes bs) s else s

end Sys2Proof.Machine
end

