-- ==== Sys2Proof/Machine/Operands.lean ====
section
/-! DEFINITION. The operand checks of the commands, in the order of R140, and what a legal operand becomes. A check
answers the operand's register or the cause of R138. -/

namespace Sys2Proof.Machine

/-- VOICE, `< NVOICES`, or BAD_VOICE (R66, R138). -/
def checkVoice (v : BitVec 8) : Except Cause (Fin 32) :=
  if h : v.toNat < 32 then .ok ⟨v.toNat, h⟩ else .error .badVoice

/-- NOTE and VEL, both `< 128`, or BAD_NOTE (R66, R138). -/
def checkNote (note vel : BitVec 8) : Except Cause (BitVec 7 × BitVec 7) :=
  if note.toNat < 128 ∧ vel.toNat < 128 then .ok (note.setWidth 7, vel.setWidth 7) else .error .badNote

/-- PID, a valid parameter identifier, or BAD_PARAM (R27, R138). -/
def checkParam (pid : BitVec 16) : Except Cause Pid :=
  match pidOfBits pid with
  | some p => .ok p
  | none => .error .badParam

/-- VAL, finite, or BAD_VALUE (R138). -/
def checkValue (x : F32) : Except Cause F32 := if F32.isFinite x then .ok x else .error .badValue

/-- SLOT, `< NSLOTS`, or BAD_SLOT (R66, R138). -/
def checkSlot (nSlots : Nat) (i : BitVec 8) : Except Cause Nat :=
  if i.toNat < nSlots then .ok i.toNat else .error .badSlot

/-- SRC of a slot: none (0x00) or a source identifier, or BAD_SOURCE (R81, R138). -/
def checkSlotSource (src : BitVec 8) : Except Cause (Option Source) :=
  if src = 0 then .ok none
  else match sourceOfBits src with
    | some x => .ok (some x)
    | none => .error .badSource

/-- TGT of a slot: none (0x0000) or a modulatable parameter, or BAD_TARGET (R81, R136, R138). -/
def checkTarget (tgt : BitVec 16) : Except Cause (Option Pid) :=
  if tgt = 0 then .ok none
  else match pidOfBits tgt with
    | some p => if isModulatable p then .ok (some p) else .error .badTarget
    | none => .error .badTarget

/-- An enabled slot has a source and a target, or INCOMPLETE, and no local source with a global target, or SCOPE (R81). -/
def checkRoute (en : Bool) (src : Option Source) (tgt : Option Pid) : Except Cause Unit :=
  if en then
    match src, tgt with
    | some x, some p => if isLocalSource x && isGlobal p then .error .scope else .ok ()
    | _, _ => .error .incomplete
  else .ok ()

/-- SRC of SET_GSRC: a global source input, or BAD_SOURCE (R83). -/
def checkGsrc (src : BitVec 8) : Except Cause (Fin 5) :=
  match gsrcIndex src with
  | some i => .ok i
  | none => .error .badSource

/-- SRC of SET_LSRC: a local LFO input, or BAD_SOURCE (R84). -/
def checkLsrc (src : BitVec 8) : Except Cause (Fin 2) :=
  match lsrcIndex src with
  | some i => .ok i
  | none => .error .badSource

/-- The value a write leaves in a parameter register: clamped to the range, then truncated if the parameter is an
integer one (R77). -/
def paramValue (pid : Pid) (x : F32) : F32 :=
  let y := F32.clamp x (paramRange pid).1 (paramRange pid).2
  if isInteger pid then F32.ofInt (F32.trunc y) else y

/-- Perform a command whose checks passed, or reject it (R71, R139). -/
def performed {α : Type} (checked : Except Cause α) (effect : α → State → State) (s : State) : State :=
  match checked with
  | .ok x => effect x s
  | .error c => reject c s

end Sys2Proof.Machine
end

