-- ==== Sys2Proof/Machine/Math.lean ====
section
/-! DEFINITION. The configuration functions `exp2f`, `tanf`, `powf` (R10): the reference ones, computed in fixed point
with 192 fractional bits and rounded once, and the other admissible ones, opaque up to the laws of R10 (log entry 3). -/

namespace Sys2Proof.Math

/-- Fractional bits of the fixed-point numbers of this file. -/
abbrev fracBits : Nat := 192

/-- `1` in fixed point. -/
abbrev fxOne : Nat := 2 ^ 192

/-- `ln 2` in fixed point, rounded down. -/
abbrev fxLn2 : Nat := 4350955369971217654477563090224794165364344896676135745069

/-- `pi` with 512 fractional bits, rounded down: enough to reduce the largest binary32 value modulo `pi` and keep 192. -/
abbrev fxPi512 : Nat :=
  42121870893450636219446821484559388105255997313489254605594685088103805782276098919793885372247726346443771296916333485327292916625599161542353774203832599

/-- Fixed-point product, rounded down. -/
def fxMul (a b : Nat) : Nat := a * b / fxOne

/-- The terms `term * z / k`, `term * z^2 / (k (k + 1))`, ... of the exponential series added to `acc`. -/
def expTerms (z : Nat) : Nat → Nat → Nat → Nat → Nat
  | 0, _, _, acc => acc
  | fuel + 1, k, term, acc => expTerms z fuel (k + 1) (fxMul term z / k) (acc + fxMul term z / k)

/-- `exp(z)` for `0 ≤ z < 1` in fixed point. -/
def fxExp (z : Nat) : Nat := expTerms z 64 1 fxOne fxOne

/-- The alternating terms `term * z2 / (k (k + 1))`, ... of the sine and cosine series added to `acc`. -/
def trigTerms (z2 : Nat) : Nat → Nat → Int → Int → Int
  | 0, _, _, acc => acc
  | fuel + 1, k, term, acc =>
    trigTerms z2 fuel (k + 2) (-(term * z2 / (fxOne * k * (k + 1) : Nat))) (acc - term * z2 / (fxOne * k * (k + 1) : Nat))

/-- `sin(z)` in fixed point, `0 ≤ z < 1.6`. -/
def fxSin (z : Nat) : Int := trigTerms (fxMul z z) 40 2 z z

/-- `cos(z)` in fixed point, `0 ≤ z < 1.6`. -/
def fxCos (z : Nat) : Int := trigTerms (fxMul z z) 40 1 fxOne fxOne

/-- The terms `w^k / k`, `w^(k+2) / (k + 2)`, ... of the series of `atanh`, `pow` holding `w^k`. -/
def atanhTerms (w2 : Nat) : Nat → Nat → Nat → Nat → Nat
  | 0, _, _, acc => acc
  | fuel + 1, k, pow, acc => atanhTerms w2 fuel (k + 2) (fxMul pow w2) (acc + pow / k)

/-- `ln(m)` for `1 ≤ m < 2` in fixed point: `2 atanh((m - 1) / (m + 1))`. -/
def fxLn (m : Nat) : Nat :=
  let w := (m - fxOne) * fxOne / (m + fxOne)
  2 * atanhTerms (fxMul w w) 64 1 w 0

/-- A significand within `2^-150` of a number of 26 fractional bits is taken to be that number: an exact result, such as
a square, is then rounded as what it is. -/
def snap (m : Nat) : Nat :=
  let g := 2 ^ 166
  let near := (m + g / 2) / g * g
  if near - m + (m - near) < 2 ^ 42 then near else m

/-- The value nearest to `m * 2^(e - 192)`. -/
def roundFx (m : Nat) (e : Int) : F32 :=
  let s := e + 149 - 192
  if 0 ≤ s then F32.ofRatio false (m * 2 ^ s.toNat) 1 else F32.ofRatio false m (2 ^ (-s).toNat)

/-- `2^(t / 2^192)` rounded to the nearest value. -/
def exp2Fx (t : Int) : F32 :=
  let i := t / (fxOne : Int)
  if 128 ≤ i then F32.inf
  else if i < -151 then F32.zero
  else roundFx (snap (fxExp (fxMul (t % (fxOne : Int)).toNat fxLn2))) i

/-- `exp2f` of the reference configuration: `2^x` rounded to nearest, for every finite `x`. R10 gives no exact result for a
NaN or an infinity; DESIGN CHOICE any value, the same each time (log entry 3). -/
def refExp2 (x : F32) : F32 := if F32.isFinite x then exp2Fx (F32.toUnits x * 2 ^ 43) else Config.anyExp2 x

/-- The value nearest to `tan(z / 2^512)`, with its sign inverted if `neg`, `0 ≤ z ≤ pi / 2` with 512 fractional bits. -/
def tanFx (neg : Bool) (z : Nat) : F32 :=
  F32.ofRatio neg ((fxSin (z / 2 ^ 320)).toNat * 2 ^ 149) (fxCos (z / 2 ^ 320)).toNat

/-- The value nearest to `tan(r / 2^512)`, with its sign inverted if `neg`, `0 ≤ r < pi` with 512 fractional bits: beyond
a quarter turn, `tan(r) = -tan(pi - r)`. -/
def tanTurn (neg : Bool) (r : Nat) : F32 := if 2 * r ≤ fxPi512 then tanFx neg r else tanFx (!neg) (fxPi512 - r)

/-- `tanf` of the reference configuration: the tangent rounded to nearest, for every finite `x` (below `2^-30` it rounds
to `x` itself). R10 gives no exact result for a NaN or an infinity; DESIGN CHOICE any value, the same each time (log
entry 3). -/
def refTan (x : F32) : F32 :=
  if F32.isFinite x then
    if F32.mag x < 0x30800000 then x else tanTurn (F32.sign x) (F32.units x * 2 ^ 363 % fxPi512)
  else Config.anyTan x

/-- `log2(x)` of a positive finite value, in fixed point. -/
def fxLog2 (x : F32) : Int :=
  let e := Nat.log2 (F32.units x)
  ((fxLn (F32.units x * 2 ^ 192 / 2 ^ e) * fxOne / fxLn2 : Nat) : Int) + ((e : Int) - 149) * (fxOne : Int)

/-- `powf` of the reference configuration for `0 < x < 1` and finite `y > 0`: `x^y` rounded to nearest. `pinPow` gives
`x = 0` and `x = 1`; R10 uses no other operands, and for those DESIGN CHOICE any value, the same each time (log entry 3). -/
def refPow (x y : F32) : F32 :=
  if F32.lt F32.zero x && F32.lt x F32.one && F32.lt F32.zero y && F32.isFinite y then
    exp2Fx (fxLog2 x * F32.units y / 2 ^ 149)
  else Config.anyPow x y

/-- A two-place function with the values R10 fixes put in: `powf(x, 1) = x`, `powf(0, y) = 0`, `powf(1, y) = 1`. The first
argument `-0.0` is a zero too; R10 does not say the sign of its result zero; DESIGN CHOICE either, the same each time
(log entry 3). -/
def pinPow (f : F32 → F32 → F32) (x y : F32) : F32 :=
  if y = F32.one then x
  else if F32.mag x = 0 then F32.ofMag (F32.sign x && F32.sign (f x y)) 0
  else if x = F32.one then F32.one
  else f x y

/-- The law of R10 that `powf` is monotone non-decreasing in `x` for fixed `y > 0`, over `0 ≤ x ≤ 1`. -/
abbrev PowMonotone (f : F32 → F32 → F32) : Prop :=
  ∀ y x x' : F32, F32.lt F32.zero y = true → F32.le F32.zero x = true → F32.le x x' = true →
    F32.le x' F32.one = true → F32.le (f x y) (f x' y) = true

/-- The other admissible `powf`: any function that keeps the laws; a function that does not is replaced by one that does. -/
def otherPow (x y : F32) : F32 :=
  if PowMonotone (pinPow Config.anyPow) then pinPow Config.anyPow x y else x

/-- `exp2f` of an instance; `exp2f(0) = 1` for both zeros (R10). -/
def exp2f (m : MathChoice) (x : F32) : F32 :=
  if F32.mag x = 0 then F32.one
  else match m with
    | .reference => refExp2 x
    | .other => Config.anyExp2 x

/-- `tanf` of an instance (R10). -/
def tanf (m : MathChoice) (x : F32) : F32 :=
  match m with
  | .reference => refTan x
  | .other => Config.anyTan x

/-- `powf` of an instance (R10). -/
def powf (m : MathChoice) (x y : F32) : F32 :=
  match m with
  | .reference => pinPow refPow x y
  | .other => otherPow x y

end Sys2Proof.Math
end

