-- ==== Sys2Proof/Machine/Envelope.lean ====
section
/-! DEFINITION. The ADSR envelope (R118 to R127). -/

namespace Sys2Proof.Machine

/-- `Dlen` of a duration in seconds: `rne(duration * f32(FS))` samples (R118). -/
def segLen (c : Params) (seconds : F32) : Nat := (F32.rne (F32.mul seconds (F32.ofNat c.fs))).toNat

/-- Note-on: Attack from the current level (R119). -/
def envNoteOn (e : Env) : Env := { e with stage := .attack, start := e.level, t := 0 }

/-- Note-off: Release from the current level; a releasing or idle envelope is left alone (R120). -/
def envNoteOff (e : Env) : Env :=
  match e.stage with
  | .attack | .decay | .sustain => { e with stage := .release, start := e.level, t := 0 }
  | .release | .idle => e

/-- `Next(stage)`: Attack, Decay, Sustain; Release, Idle (R121). -/
def envNext : EnvStage → EnvStage
  | .attack => .decay
  | .decay => .sustain
  | .release => .idle
  | .sustain => .sustain
  | .idle => .idle

/-- `Finish(v, e, T)`: the segment ends at its target (R121). -/
def envFinish (target : F32) (e : Env) : Env := ⟨envNext e.stage, target, target, 0⟩

/-- One sample of a timed segment of `d` samples, `d > 0` (R121). -/
def envTimed (d : Nat) (target : F32) (curve : F32 → F32) (e : Env) : Env :=
  if d ≤ e.t + 1 then envFinish target { e with t := e.t + 1 }
  else
    { e with
      t := e.t + 1
      level := F32.clamp (curve (F32.div (F32.ofNat (e.t + 1)) (F32.ofNat d))) F32.zero F32.one }

/-- The curve of Attack (R122). -/
def attackCurve (m : MathChoice) (start slope p : F32) : F32 :=
  F32.add start (F32.mul (F32.sub F32.one start) (Math.powf m p slope))

/-- The curve of Decay and Release toward `target` (R122). -/
def fallCurve (m : MathChoice) (start target slope p : F32) : F32 :=
  F32.add target (F32.mul (F32.sub start target) (Math.powf m (F32.sub F32.one p) slope))

/-- The effective parameters of one envelope (R25). -/
structure EnvParams where
  attack : F32
  decay : F32
  sustain : F32
  release : F32
  attackSlope : F32
  decaySlope : F32
  releaseSlope : F32
deriving DecidableEq, Repr

/-- The effective parameters of envelope `e` of a voice (R25, R29). -/
def envParamsOf (p : Vector F32 59) (vc : Voice) (e : Fin 3) : EnvParams where
  attack := readEff p vc (.env e .attack)
  decay := readEff p vc (.env e .decay)
  sustain := readEff p vc (.env e .sustain)
  release := readEff p vc (.env e .release)
  attackSlope := readEff p vc (.env e .attackSlope)
  decaySlope := readEff p vc (.env e .decaySlope)
  releaseSlope := readEff p vc (.env e .releaseSlope)

/-- A sample in Sustain: the level is SUSTAIN (R121, R123). -/
def envSustain (q : EnvParams) (e : Env) : Env := { e with level := q.sustain }

/-- A sample in Decay; a decay of no samples passes on to Sustain (R121). -/
def envDecay (c : Params) (q : EnvParams) (e : Env) : Env :=
  if segLen c q.decay = 0 then envSustain q (envFinish q.sustain e)
  else envTimed (segLen c q.decay) q.sustain (fallCurve c.math e.start q.sustain q.decaySlope) e

/-- A sample in Attack; an attack of no samples passes on to Decay (R121). -/
def envAttack (c : Params) (q : EnvParams) (e : Env) : Env :=
  if segLen c q.attack = 0 then envDecay c q (envFinish F32.one e)
  else envTimed (segLen c q.attack) F32.one (attackCurve c.math e.start q.attackSlope) e

/-- A sample in Release; a release of no samples ends at once in Idle (R121). -/
def envRelease (c : Params) (q : EnvParams) (e : Env) : Env :=
  if segLen c q.release = 0 then envFinish F32.zero e
  else envTimed (segLen c q.release) F32.zero (fallCurve c.math e.start F32.zero q.releaseSlope) e

/-- `EnvStep(v, e)`: one sample of an envelope (R121), its loop unrolled along Attack, Decay, Sustain. -/
def envStep (c : Params) (q : EnvParams) (e : Env) : Env :=
  match e.stage with
  | .idle => e
  | .attack => envAttack c q e
  | .decay => envDecay c q e
  | .sustain => envSustain q e
  | .release => envRelease c q e

/-- The three envelopes of a voice stepped, in order (R88, R89). -/
def stepEnvs (c : Params) (p : Vector F32 59) (vc : Voice) : Vector Env 3 :=
  #v[envStep c (envParamsOf p vc 0) vc.env[0], envStep c (envParamsOf p vc 1) vc.env[1],
     envStep c (envParamsOf p vc 2) vc.env[2]]

end Sys2Proof.Machine
end

