-- ==== Sys2Proof/Machine/Filter.lean ====
section
/-! DEFINITION. The state-variable filter (R112 to R117). -/

namespace Sys2Proof.Machine

/-- `wc`: the cutoff, limited to `FC_LIMIT * FS`, as an angle per sample (R112). -/
def fltAngle (c : Params) (cutoff : F32) : F32 :=
  F32.div (F32.mul (0x40490FDB#32) (F32.min cutoff (F32.mul c.fcLimit (F32.ofNat c.fs)))) (F32.ofNat c.fs)

/-- `K`: the damping (R112). -/
def fltDamping (c : Params) (res : F32) : F32 :=
  F32.sub F32.two (F32.mul F32.two (F32.mul res c.resLimit))

/-- The coefficients from `G` and `K` (R112). -/
def coefsOf (g k : F32) : Coefs :=
  let a1 := F32.div F32.one (F32.add F32.one (F32.mul g (F32.add g k)))
  let a2 := F32.mul g a1
  ⟨g, k, a1, a2, F32.mul g a2⟩

/-- `FltCoef(MODE, CUTOFF, RES)` (R112); MODE does not enter. -/
def fltCoef (c : Params) (key : FltKey) : Coefs :=
  coefsOf (Math.tanf c.math (fltAngle c key.cutoff)) (fltDamping c key.res)

/-- Coefficients as they are written to the cache: a NaN gets a free payload (log entry 4). -/
def settleCoefs (d v f : Nat) (x : Coefs) : Coefs :=
  ⟨F32.settle d (.coef v f 0) x.g, F32.settle d (.coef v f 1) x.k, F32.settle d (.coef v f 2) x.a1,
   F32.settle d (.coef v f 3) x.a2, F32.settle d (.coef v f 4) x.a3⟩

/-- The key of filter `f` of a voice (R113). -/
def fltKeyOf (p : Vector F32 59) (vc : Voice) (f : Fin 2) : FltKey :=
  ⟨intParam p (.flt f .mode), readEff p vc (.flt f .cutoff), readEff p vc (.flt f .resonance)⟩

/-- Whether two keys are the same values; `-0.0` and `+0.0` are (R113). -/
def sameKey (a b : FltKey) : Bool :=
  decide (a.mode = b.mode) && F32.eqv a.cutoff b.cutoff && F32.eqv a.res b.res

/-- `FltCoefUpdate(v, f)`: the cache of a filter brought to key `key` (R113). -/
def fltCoefUpdate (c : Params) (key : FltKey) (d v f : Nat) (x : Flt) : Flt :=
  if x.cvalid && sameKey key x.key then x
  else { x with coefs := settleCoefs d v f (fltCoef c key), key := key, cvalid := true }

/-- `v3` of a filter sample (R114). -/
def fltV3 (x : F32) (s : Flt) : F32 := F32.sub x s.ic2

/-- `v1` of a filter sample, the band-pass output (R114). -/
def fltV1 (x : F32) (s : Flt) : F32 := F32.add (F32.mul s.coefs.a1 s.ic1) (F32.mul s.coefs.a2 (fltV3 x s))

/-- `v2` of a filter sample, the low-pass output (R114). -/
def fltV2 (x : F32) (s : Flt) : F32 :=
  F32.add (F32.add s.ic2 (F32.mul s.coefs.a2 s.ic1)) (F32.mul s.coefs.a3 (fltV3 x s))

/-- The output of a filter sample: MODE 0 low-pass, 1 high-pass, otherwise band-pass (R114). -/
def fltOut (mode : Nat) (x : F32) (s : Flt) : F32 :=
  if mode = 0 then fltV2 x s
  else if mode = 1 then F32.sub (F32.sub x (F32.mul s.coefs.k (fltV1 x s))) (fltV2 x s)
  else fltV1 x s

/-- The filter after a sample: its two integrators stepped (R114). -/
def fltNext (x : F32) (s : Flt) : Flt :=
  { s with ic1 := F32.sub (F32.mul F32.two (fltV1 x s)) s.ic1
           ic2 := F32.sub (F32.mul F32.two (fltV2 x s)) s.ic2 }

/-- Whether an integrator of the filter is a NaN or an infinity (R117). -/
def fltBroken (s : Flt) : Bool := !F32.isFinite s.ic1 || !F32.isFinite s.ic2

/-- `NanGuard(v, f)` on one filter: a broken one goes to zero state, its cache kept (R117). -/
def nanGuard (s : Flt) : Flt := if fltBroken s then { s with ic1 := F32.zero, ic2 := F32.zero } else s

/-- How many filters of a voice the guard resets (R117). -/
def brokenFilters (vc : Voice) : Nat := (vc.flt.toList.filter fltBroken).length

end Sys2Proof.Machine
end

