-- ==== Sys2Proof/Machine/Oscillator.lean ====
section
/-! DEFINITION. The wavetable oscillator (R101 to R111). -/

namespace Sys2Proof.Machine

/-- `base(v, k)`: semitones relative to A4 (R101). -/
def basePitch (note : BitVec 7) (tune fine : F32) : F32 :=
  F32.add (F32.add (F32.sub (F32.ofNat note.toNat) (0x428A0000#32)) tune) (F32.div fine (0x42C80000#32))

/-- `u(i)`: the detune offset of unison instance `i` of `n`, in semitones (R102). -/
def detune (n i : Nat) (spread : F32) : F32 :=
  if n ≤ 1 then F32.zero
  else F32.mul (F32.div spread (0x42C80000#32))
    (F32.sub (F32.div (F32.ofNat (2 * i)) (F32.ofNat (n - 1))) F32.one)

/-- The phase increment of a pitch in semitones relative to A4, in cycles per sample (R103). -/
def phaseInc (c : Params) (semis : F32) : F32 :=
  F32.clamp
    (F32.div (F32.mul (0x43DC0000#32) (Math.exp2f c.math (F32.div semis (0x41400000#32)))) (F32.ofNat c.fs))
    F32.zero F32.half

/-- `Advance(ph, inc)`: the phase after one sample, and whether it wrapped (R104). -/
def advance (ph inc : F32) : F32 × Bool :=
  if F32.le F32.one (F32.add ph inc) then (F32.sub (F32.add ph inc) F32.one, true) else (F32.add ph inc, false)

/-- `TableRead(t, j, i)` on the frames of a table (R47). Every index asked for is in range (log entry 10). -/
def tableRead (frames : List (List F32)) (j i : Nat) : F32 := (((frames[j]?).getD [])[i]?).getD F32.zero

/-- `TableOf(k)` for TABLE = `t`: table 0 if no table `t` is loaded (R106). -/
def tableOf (c : Params) (t : Nat) : Nat := if t < c.nTables then t else 0

/-- `S(j)`: frame `j` interpolated between samples `i0` and `i1` (R108). -/
def frameValue (frames : List (List F32)) (j i0 i1 : Nat) (fr : F32) : F32 :=
  F32.add (tableRead frames j i0) (F32.mul fr (F32.sub (tableRead frames j i1) (tableRead frames j i0)))

/-- The sample index before `x = ph * f32(L)`, wrapped at the end of the frame (R107). -/
def sampleIndex (l : Nat) (x : F32) : Nat :=
  if l ≤ (F32.floor x).toNat then (F32.floor x).toNat - l else (F32.floor x).toNat

/-- The fraction of `x` above its floor (R107). -/
def fracPart (x : F32) : F32 := F32.sub x (F32.ofInt (F32.floor x))

/-- `Lookup(t, w, ph)` on the frames of table `t`: the sample axis first, then the frame axis (R107, R108). -/
def lookup (l : Nat) (frames : List (List F32)) (w ph : F32) : F32 :=
  let x := F32.mul ph (F32.ofNat l)
  let i0 := sampleIndex l x
  let i1 := (i0 + 1) % l
  let fr := fracPart x
  if frames.length ≤ 1 then frameValue frames 0 i0 i1 fr
  else
    let y := F32.mul w (F32.ofNat (frames.length - 1))
    let j0 := Nat.min (F32.floor y).toNat (frames.length - 2)
    let fj := F32.sub y (F32.ofNat j0)
    F32.add (frameValue frames j0 i0 i1 fr)
      (F32.mul fj (F32.sub (frameValue frames (j0 + 1) i0 i1 fr) (frameValue frames j0 i0 i1 fr)))

/-- The unison mix of `n` instance values, in ascending order (R109). -/
def mix (n : Nat) (values : List F32) (level : F32) : F32 :=
  F32.mul (F32.mul (values.foldl F32.add F32.zero) (F32.div F32.one (F32.sqrt (F32.ofNat n)))) level

/-- The parameters of one oscillator as the datapath reads them: effective values and integers (R23, R28, R29). -/
structure OscParams where
  table : Nat
  level : F32
  tune : F32
  fine : F32
  wavePos : F32
  unison : Nat
  spread : F32
  sync : Nat
  syncLeader : Nat
deriving DecidableEq, Repr

/-- The parameters of oscillator `k` of a voice (R23). -/
def oscParamsOf (p : Vector F32 59) (vc : Voice) (k : Fin 3) : OscParams where
  table := intParam p (.osc k .table)
  level := readEff p vc (.osc k .level)
  tune := readEff p vc (.osc k .tune)
  fine := readEff p vc (.osc k .fine)
  wavePos := readEff p vc (.osc k .wavePos)
  unison := intParam p (.osc k .unison)
  spread := readEff p vc (.osc k .spread)
  sync := intParam p (.osc k .sync)
  syncLeader := intParam p (.osc k .syncLeader)

/-- `inc(v, k, i)` (R103). -/
def oscInc (c : Params) (q : OscParams) (note : BitVec 7) (i : Nat) : F32 :=
  phaseInc c (F32.add (basePitch note q.tune q.fine) (detune q.unison i q.spread))

/-- `syncing(v, k)`, from the wrap events of the oscillators below `k` in this sample, in order (R105). A leader not below
`k` has none. -/
def syncing (q : OscParams) (wraps : List Bool) : Bool := decide (q.sync = 1) && (wraps[q.syncLeader]?).getD false

/-- The output of an oscillator at its current phases (R109, R110). -/
def oscOut (c : Params) (q : OscParams) (o : Osc) : F32 :=
  mix q.unison
    ((o.ph.toList.take q.unison).map (lookup c.frameLen (c.frames (tableOf c q.table)) q.wavePos)) q.level

/-- The phases after one sample: the instances below UNISON advance, or go to 0 under sync; the others keep theirs
(R104, R105, R110). -/
def oscPhases (c : Params) (q : OscParams) (note : BitVec 7) (sy : Bool) (o : Osc) : Vector F32 7 :=
  vmapIdx (fun i ph =>
    if i < q.unison then (if sy then F32.zero else (advance ph (oscInc c q note i)).1) else ph) o.ph

/-- The wrap event of an oscillator: instance 0 wrapped, or the oscillator was reset by sync (R105, R110). -/
def oscWrap (c : Params) (q : OscParams) (note : BitVec 7) (sy : Bool) (o : Osc) : Bool :=
  decide (0 < q.unison) && ((advance o.ph[0] (oscInc c q note 0)).2 || sy)

/-- What one sample of an oscillator gives: its new state, its output and its wrap event. -/
structure OscStep where
  osc : Osc
  out : F32
  wrap : Bool
deriving DecidableEq, Repr

/-- `OscSample(v, k, wrap)` (R110); `d` and `site` name the free payload of a NaN left in `last`. -/
def oscSample (c : Params) (q : OscParams) (note : BitVec 7) (wraps : List Bool) (d : Nat) (site : NanSite) (o : Osc) :
    OscStep where
  osc := ⟨oscPhases c q note (syncing q wraps) o, F32.settle d site (oscOut c q o)⟩
  out := oscOut c q o
  wrap := oscWrap c q note (syncing q wraps) o

end Sys2Proof.Machine
end

