-- ==== Sys2Proof/Machine/Voice.lean ====
section
/-! DEFINITION. The voice: life cycle, routing, amplitude and one sample (R88 to R97). -/

namespace Sys2Proof.Machine

/-- `Reinit(v)`: the units and the fade fields at their reset values; stage, note, velocity, LFO inputs, effective values
and the coefficient caches kept (R95). -/
def reinit (vc : Voice) : Voice :=
  { vc with
    osc := vconst 3 oscReset
    flt := vmap (fun x => { x with ic1 := F32.zero, ic2 := F32.zero }) vc.flt
    env := vconst 3 envReset
    fade := 0
    pend := false
    pnote := 0
    pvel := 0 }

/-- `StartVoice(v, note, vel)` (R94). -/
def startVoice (note vel : BitVec 7) (vc : Voice) : Voice :=
  { reinit vc with note := note, vel := vel, stage := .active, env := vmap envNoteOn (reinit vc).env }

/-- A note-on to a sounding voice: new note, attack from the current levels, phases and filter states kept (R78). -/
def retrigger (note vel : BitVec 7) (vc : Voice) : Voice :=
  { vc with note := note, vel := vel, stage := .active, env := vmap envNoteOn vc.env }

/-- The note that waits for the end of the fade (R78, R80). -/
def setPending (note vel : BitVec 7) (vc : Voice) : Voice := { vc with pend := true, pnote := note, pvel := vel }

/-- `FadeGain(v)` (R96). -/
def fadeGain (c : Params) (vc : Voice) : F32 :=
  if 0 < vc.fade then F32.div (F32.ofNat (vc.fade - 1)) (F32.ofNat c.fadeLen) else F32.one

/-- Whether every envelope of RELEVANT_ENV is Idle (R97). -/
def releaseEnded (c : Params) (vc : Voice) : Bool := c.relevantEnv.all (fun e => vc.env[e.val].stage == .idle)

/-- The end of a steal fade: the waiting note starts, or the voice goes Idle (R97). -/
def fadeEnd (vc : Voice) : Voice :=
  if vc.pend then startVoice vc.pnote vc.pvel vc else { reinit vc with stage := .idle }

/-- `LifeCycle(v)` (R97). -/
def lifeCycle (c : Params) (vc : Voice) : Voice :=
  if 0 < vc.fade then
    if vc.fade = 1 then fadeEnd { vc with fade := 0 } else { vc with fade := vc.fade - 1 }
  else if vc.stage = .releasing ∧ releaseEnded c vc = true then { vc with stage := .idle }
  else vc

/-- Whether oscillator `k` bypasses the filters (R92). -/
def bypassed (p : Vector F32 59) (k : Fin 3) : Bool := decide (intParam p (.osc k .bypass) = 1)

/-- The sum of the outputs of the oscillators whose BYPASS is `b`, in ascending order from `+0.0` (R92). -/
def mixWhere (p : Vector F32 59) (b : Bool) (o0 o1 o2 : F32) : F32 :=
  [((0 : Fin 3), o0), (1, o1), (2, o2)].foldl (fun acc ko => if bypassed p ko.1 = b then F32.add acc ko.2 else acc) F32.zero

/-- `Route(v, o)`: both filters stepped, in parallel or in series, and the routed signal (R92). -/
def route (p : Vector F32 59) (o0 o1 o2 : F32) (flt : Vector Flt 2) : Vector Flt 2 × F32 :=
  let fin := mixWhere p false o0 o1 o2
  let byp := mixWhere p true o0 o1 o2
  let m0 := intParam p (.flt 0 .mode)
  let m1 := intParam p (.flt 1 .mode)
  let y0 := fltOut m0 fin flt[0]
  if intParam p (.glb .routing) = 0 then
    (#v[fltNext fin flt[0], fltNext fin flt[1]], F32.add (F32.add y0 (fltOut m1 fin flt[1])) byp)
  else
    (#v[fltNext fin flt[0], fltNext y0 flt[1]], F32.add (fltOut m1 y0 flt[1]) byp)

/-- The amplitude stage: envelope 0's level, then the fade gain (R93). -/
def amplitude (c : Params) (vc : Voice) (x level : F32) : F32 := F32.mul (F32.mul x level) (fadeGain c vc)

/-- The three oscillators of a voice stepped in order, each seeing the wrap events of those before it (R88, R110). -/
def stepOscs (c : Params) (p : Vector F32 59) (d v n : Nat) (vc : Voice) : OscStep × OscStep × OscStep :=
  let r0 := oscSample c (oscParamsOf p vc 0) vc.note [] d (.last v 0 n) vc.osc[0]
  let r1 := oscSample c (oscParamsOf p vc 1) vc.note [r0.wrap] d (.last v 1 n) vc.osc[1]
  let r2 := oscSample c (oscParamsOf p vc 2) vc.note [r0.wrap, r1.wrap] d (.last v 2 n) vc.osc[2]
  (r0, r1, r2)

/-- One sample of a sounding voice: envelopes, oscillators, routing and filters, amplitude, life cycle (R88, R89). -/
def soundingSample (c : Params) (p : Vector F32 59) (d v n : Nat) (vc : Voice) : Voice × F32 :=
  let env := stepEnvs c p vc
  let r := stepOscs c p d v n vc
  let x := route p r.1.out r.2.1.out r.2.2.out vc.flt
  let y := amplitude c vc x.2 env[0].level
  (lifeCycle c { vc with env := env, osc := #v[r.1.osc, r.2.1.osc, r.2.2.osc], flt := x.1 }, y)

/-- `VoiceSample(v)` at sample `n`: an Idle voice gives `+0.0` and does not step (R89, R90). -/
def voiceSample (c : Params) (p : Vector F32 59) (d v n : Nat) (vc : Voice) : Voice × F32 :=
  if vc.stage = .idle then (vc, F32.zero) else soundingSample c p d v n vc

end Sys2Proof.Machine
end

