-- ==== Sys2Proof/Machine/Notes.lean ====
section
/-! DEFINITION. NOP and the note commands: NOTE_ON, NOTE_OFF, STEAL (R76, R78 to R80). -/

namespace Sys2Proof.Machine

/-- What a note-on does to its voice, by its state (R78). -/
def noteOnVoice (note vel : BitVec 7) (vc : Voice) : Voice :=
  if 0 < vc.fade then setPending note vel vc
  else if vc.stage = .idle then startVoice note vel vc
  else retrigger note vel vc

/-- What a note-off does to its voice, by its state (R79). -/
def noteOffVoice (vc : Voice) : Voice :=
  if 0 < vc.fade then { vc with pend := false }
  else if vc.stage = .active then { vc with stage := .releasing, env := vmap envNoteOff vc.env }
  else vc

/-- What a steal does to its voice, by its state (R80). -/
def stealVoice (c : Params) (note vel : BitVec 7) (vc : Voice) : Voice :=
  if 0 < vc.fade then setPending note vel vc
  else if vc.stage = .idle ∨ c.fadeLen = 0 then startVoice note vel vc
  else setPending note vel { vc with fade := c.fadeLen }

/-- The checks of NOTE_ON and STEAL: VOICE, then NOTE and VEL (R140). -/
def checkNoteArgs (voice note vel : BitVec 8) : Except Cause (Fin 32 × BitVec 7 × BitVec 7) := do
  let v ← checkVoice voice
  let nv ← checkNote note vel
  return (v, nv.1, nv.2)

/-- NOP: nothing changes (R76). -/
def execNop (s : State) : Result := .next s

/-- NOTE_ON VOICE, NOTE, VEL (R78). -/
def execNoteOn (voice note vel : BitVec 8) (s : State) : Result :=
  .next (performed (checkNoteArgs voice note vel) (fun a => updateVoice a.1 (noteOnVoice a.2.1 a.2.2)) s)

/-- NOTE_OFF VOICE (R79). -/
def execNoteOff (voice : BitVec 8) (s : State) : Result :=
  .next (performed (checkVoice voice) (fun v => updateVoice v noteOffVoice) s)

/-- STEAL VOICE, NOTE, VEL (R80). -/
def execSteal (voice note vel : BitVec 8) (s : State) : Result :=
  .next (performed (checkNoteArgs voice note vel) (fun a => updateVoice a.1 (stealVoice s.cfg a.2.1 a.2.2)) s)

end Sys2Proof.Machine
end

