-- ==== Sys2Proof/Machine/Writes.lean ====
section
/-! DEFINITION. The commands that write registers: WRITE_PARAM, SLOT_ROUTE, SLOT_INTENSITY, SET_GSRC, SET_LSRC
(R77, R81 to R84). -/

namespace Sys2Proof.Machine

/-- The checks of WRITE_PARAM: PID, then VAL (R77). -/
def checkWriteParam (pid : BitVec 16) (val : F32) : Except Cause (Pid × F32) := do
  let p ← checkParam pid
  let x ← checkValue val
  return (p, x)

/-- WRITE_PARAM PID, VAL (R77). -/
def execWriteParam (pid : BitVec 16) (val : F32) (s : State) : Result :=
  .next (performed (checkWriteParam pid val) (fun a => writeParamReg a.1 (paramValue a.1 a.2)) s)

/-- The checks of SLOT_ROUTE: SLOT, SRC, TGT, then the pair (R81). -/
def checkSlotRoute (nSlots : Nat) (slot : BitVec 8) (en : Bool) (src : BitVec 8) (tgt : BitVec 16) :
    Except Cause (Nat × Option Source × Option Pid) := do
  let i ← checkSlot nSlots slot
  let x ← checkSlotSource src
  let p ← checkTarget tgt
  checkRoute en x p
  return (i, x, p)

/-- SLOT_ROUTE SLOT, SRC, TGT, EN: the slot's intensity is kept (R81). -/
def execSlotRoute (slot : BitVec 8) (en : Bool) (src : BitVec 8) (tgt : BitVec 16) (s : State) : Result :=
  .next (performed (checkSlotRoute s.cfg.nSlots slot en src tgt)
    (fun a => updateSlot a.1 (fun x => { x with src := a.2.1, tgt := a.2.2, en := en })) s)

/-- The checks of SLOT_INTENSITY: SLOT, then VAL (R82). -/
def checkSlotIntensity (nSlots : Nat) (slot : BitVec 8) (val : F32) : Except Cause (Nat × F32) := do
  let i ← checkSlot nSlots slot
  let x ← checkValue val
  return (i, x)

/-- SLOT_INTENSITY SLOT, VAL (R82). -/
def execSlotIntensity (slot : BitVec 8) (val : F32) (s : State) : Result :=
  .next (performed (checkSlotIntensity s.cfg.nSlots slot val)
    (fun a => updateSlot a.1 (fun x => { x with intensity := F32.clamp a.2 F32.minusOne F32.one })) s)

/-- The checks of SET_GSRC: SRC, then VAL (R83). -/
def checkSetGsrc (src : BitVec 8) (val : F32) : Except Cause (Fin 5 × F32) := do
  let i ← checkGsrc src
  let x ← checkValue val
  return (i, x)

/-- SET_GSRC SRC, VAL (R83). -/
def execSetGsrc (src : BitVec 8) (val : F32) (s : State) : Result :=
  .next (performed (checkSetGsrc src val)
    (fun a => writeGsrc a.1 (F32.clamp a.2 (gsrcRange a.1).1 (gsrcRange a.1).2)) s)

/-- The checks of SET_LSRC: VOICE, SRC, then VAL (R84). -/
def checkSetLsrc (voice src : BitVec 8) (val : F32) : Except Cause (Fin 32 × Fin 2 × F32) := do
  let v ← checkVoice voice
  let i ← checkLsrc src
  let x ← checkValue val
  return (v, i, x)

/-- SET_LSRC VOICE, SRC, VAL; an Idle voice's input is written too (R84). -/
def execSetLsrc (voice src : BitVec 8) (val : F32) (s : State) : Result :=
  .next (performed (checkSetLsrc voice src val)
    (fun a => updateVoice a.1 (fun vc =>
      { vc with lsrc := vc.lsrc.set a.2.1.val (F32.clamp a.2.2 F32.minusOne F32.one) })) s)

end Sys2Proof.Machine
end

