-- ==== Sys2Proof/Machine/Dispatch.lean ====
section
/-! DEFINITION. The dispatch of R75: one arm per command, each one call of its meaning. -/

namespace Sys2Proof.Machine

def exec (i : Instr) (s : State) : Host.Outcome State Fault Refusal :=
  match i with
  | .nop => Sys2Proof.Machine.execNop s
  | .writeParam pid val => Sys2Proof.Machine.execWriteParam pid val s
  | .noteOn voice note vel => Sys2Proof.Machine.execNoteOn voice note vel s
  | .noteOff voice => Sys2Proof.Machine.execNoteOff voice s
  | .steal voice note vel => Sys2Proof.Machine.execSteal voice note vel s
  | .slotRoute slot en src tgt => Sys2Proof.Machine.execSlotRoute slot en src tgt s
  | .slotIntensity slot val => Sys2Proof.Machine.execSlotIntensity slot val s
  | .setGsrc src val => Sys2Proof.Machine.execSetGsrc src val s
  | .setLsrc voice src val => Sys2Proof.Machine.execSetLsrc voice src val s

end Sys2Proof.Machine
end

