-- ==== Sys2Proof/Machine/Matrix.lean ====
section
/-! DEFINITION. The modulation matrix (R128 to R136). -/

namespace Sys2Proof.Machine

/-- `SrcVal(src, -)` of a global source; a local source has no value without a voice, and no enabled slot asks for one
(R81, R129, R130). -/
def globalSource (gsrc : Vector F32 5) : Source → F32
  | .aftertouch => gsrc[0]
  | .pitchWheel => gsrc[1]
  | .modWheel => gsrc[2]
  | .glfo i => gsrc[3 + i.val]
  | .velocity | .osc _ | .env _ | .lfo _ => F32.zero

/-- `SrcVal(src, v)` (R32, R129). -/
def sourceValue (gsrc : Vector F32 5) (vc : Voice) : Source → F32
  | .velocity => F32.div (F32.ofNat vc.vel.toNat) (0x42FE0000#32)
  | .osc k => vc.osc[k.val].last
  | .env e => vc.env[e.val].level
  | .lfo i => vc.lsrc[i.val]
  | .aftertouch => globalSource gsrc .aftertouch
  | .pitchWheel => globalSource gsrc .pitchWheel
  | .modWheel => globalSource gsrc .modWheel
  | .glfo i => globalSource gsrc (.glfo i)

/-- The accumulator of target `pid` after slot `s`: an enabled slot with that target adds `(source * intensity) * span`,
any other adds nothing (R130, R132). -/
def addSlot (value : Source → F32) (pid : Pid) (acc : F32) (s : Slot) : F32 :=
  if s.en && s.tgt == some pid then
    match s.src with
    | some x => F32.add acc (F32.mul (F32.mul (value x) s.intensity) (paramSpan pid))
    | none => acc
  else acc

/-- The accumulator of a target after all slots, in ascending order (R130, R134). -/
def accumulate (value : Source → F32) (pid : Pid) (slots : List Slot) : F32 :=
  slots.foldl (addSlot value pid) F32.zero

/-- The accumulator of a local target in a voice; no slot contributes to an Idle voice (R130, R133). -/
def localAcc (gsrc : Vector F32 5) (slots : List Slot) (vc : Voice) (pid : Pid) : F32 :=
  if vc.stage = .idle then F32.zero else accumulate (sourceValue gsrc vc) pid slots

/-- `clamp(base + sum, lo, hi)`: the effective value of a parameter (R131). -/
def effValue (base acc : F32) (pid : Pid) : F32 :=
  F32.clamp (F32.add base acc) (paramRange pid).1 (paramRange pid).2

/-- `ResolveEff` for one voice: every effective register written (R131). -/
def resolveVoice (p : Vector F32 59) (gsrc : Vector F32 5) (slots : List Slot) (vc : Voice) : Voice :=
  { vc with eff := effRegs (fun pid => effValue (readParam p pid) (localAcc gsrc slots vc pid) pid) }

/-- `ResolveMatrix()` (R130, R131). -/
def resolveMatrix (s : State) : State :=
  { s with
    effVolume :=
      effValue (readParam s.p (.glb .volume)) (accumulate (globalSource s.gsrc) (.glb .volume) s.slots) (.glb .volume)
    voices := vmap (resolveVoice s.p s.gsrc s.slots) s.voices }

end Sys2Proof.Machine
end

