-- ==== Sys2Proof/Machine/Engine.lean ====
section
/-! DEFINITION. The engine's block step (R86 to R91): drain, resolution, preparation, samples, end; and the moves of the
host (R58, R150). -/

namespace Sys2Proof.Machine

/-- `Apply(W)`: decode a word and perform it, or reject it (R75). -/
def apply (w : Word) (s : State) : Result :=
  match decodeWord w with
  | .ok i => exec i s
  | .error c => .next (reject c s)

/-- Apply words in order, each completing before the next begins (R55, R56). -/
def applyAll : List Word → State → Result
  | [], s => .next s
  | w :: ws, s =>
    match apply w s with
    | .next s' => applyAll ws s'
    | .fault r => .fault r
    | .refused r => .refused r

/-- `QueueDrain()`: the queue is emptied and every word it held is applied, oldest first (R55). -/
def queueDrain (s : State) : Result := applyAll s.q { s with q := [] }

/-- `TableFallbackCheck(k)` (R106). -/
def tableFallbackCheck (k : Fin 3) (s : State) : State :=
  if s.cfg.nTables ≤ intParam s.p (.osc k .table) then countFallback s else s

/-- The coefficient updates of voice `v` before a block; an Idle voice's caches are left alone (R87, R113). -/
def prepareVoice (c : Params) (p : Vector F32 59) (d v : Nat) (vc : Voice) : Voice :=
  if vc.stage = .idle then vc
  else { vc with flt := #v[fltCoefUpdate c (fltKeyOf p vc 0) d v 0 vc.flt[0],
                           fltCoefUpdate c (fltKeyOf p vc 1) d v 1 vc.flt[1]] }

/-- `BlockPrepare()` (R87). -/
def blockPrepare (s : State) : State :=
  let s := tableFallbackCheck 2 (tableFallbackCheck 1 (tableFallbackCheck 0 s))
  { s with voices := vmapIdx (prepareVoice s.cfg s.p s.draw) s.voices }

/-- Sample `n` of every voice, in ascending order (R86, R88). -/
def sampleVoices (c : Params) (p : Vector F32 59) (d n : Nat) (vs : Vector Voice 32) : Vector (Voice × F32) 32 :=
  vmapIdx (fun v vc => voiceSample c p d v n vc) vs

/-- `OUT[v][n] <- x` for every voice: sample `n` is appended to the buffer of the block (R41, R86). -/
def appendSamples (d n : Nat) (out : Vector (List F32) 32) (r : Vector (Voice × F32) 32) : Vector (List F32) 32 :=
  vzipIdx (fun v xs vy => xs ++ [F32.settle d (.out v n) vy.2]) out r

/-- Samples `n`, `n + 1`, ..., `count` of them, of every voice (R86). -/
def renderFrom (c : Params) (p : Vector F32 59) (d : Nat) :
    Nat → Nat → Vector Voice 32 → Vector (List F32) 32 → Vector Voice 32 × Vector (List F32) 32
  | 0, _, vs, out => (vs, out)
  | count + 1, n, vs, out =>
    let r := sampleVoices c p d n vs
    renderFrom c p d count (n + 1) (vmap (fun vy => vy.1) r) (appendSamples d n out r)

/-- The `B` samples of the block: every element of OUT is written (R86). -/
def renderBlock (s : State) : State :=
  let r := renderFrom s.cfg s.p s.draw s.cfg.block 0 s.voices (vconst 32 [])
  { s with voices := r.1, out := r.2 }

/-- The non-finite guard over every filter of every voice (R91, R117). -/
def nanGuardAll (s : State) : State :=
  countNans ((s.voices.toList.map brokenFilters).sum)
    { s with voices := vmap (fun vc => { vc with flt := vmap nanGuard vc.flt }) s.voices }

/-- The number of voices that are not Idle (R42). -/
def activeCount (vs : Vector Voice 32) : Nat := (vs.toList.filter (fun vc => vc.stage != .idle)).length

/-- The snapshot of a state (R42). -/
def snapshot (s : State) : Snap where
  cnt := s.cnt
  status := s.status
  stages := vmap (fun vc => vc.stage) s.voices
  levels := vmap (fun vc => vmap (fun e => e.level) vc.env) s.voices
  active := activeCount s.voices
  volume := s.effVolume

/-- `BlockEnd()`: guard, count, snapshot (R91). -/
def blockEnd (s : State) : State :=
  let s := countBlock (nanGuardAll s)
  { s with snap := snapshot s }

/-- What a block step does after the drain (R86); the next step draws other NaN payloads (log entry 5). -/
def renderStep (s : State) : State :=
  let s := blockEnd (renderBlock (blockPrepare (resolveMatrix s)))
  { s with draw := s.draw + 1 }

/-- `BlockStep()` (R86). -/
def blockStep (s : State) : Result :=
  match queueDrain s with
  | .next s' => .next (renderStep s')
  | .fault r => .fault r
  | .refused r => .refused r

/-- What the host reads as the snapshot: the copy of the latest completed block step (R58, R150). -/
def readSnapshot (s : State) : Snap := s.snap

/-- What the host reads as the outputs: the buffers of the latest block and the effective patch volume (R99, R150). -/
def readOutputs (s : State) : Vector (List F32) 32 × F32 := (s.out, readEffGlobal s .volume)

/-- One move of the outside world (R58, R150): at most one push, as a word or as its bytes; a read, which changes nothing
(R51); or a tick of the clock, which makes one block step (R86). -/
def hostMove (m : HostMove) (s : State) : Result :=
  match m with
  | .push w => .next (queuePush w s)
  | .transport bs got => .next (queueTransport bs got s)
  | .readSnap => .next s
  | .readOut => .next s
  | .tick => blockStep s

end Sys2Proof.Machine
end

