-- ==== Sys2Proof/Machine/Step.lean ====
section
/-! DEFINITION. One step of the machine (R58, R167), and how a command is placed where the next step takes it. -/

namespace Sys2Proof.Machine

/-- The oldest move still to come is made; with none listed the audio clock ticks (R58, R86; log entry 6). -/
def step (s : State) : Host.Outcome State Fault Refusal :=
  match s.host with
  | [] => hostMove .tick s
  | m :: rest => hostMove m { s with host := rest }

/-- `s` with one command word, the low `nbits` bits of `w`, in the queue and a clock tick as the next move: the very next
step is a block step that drains and performs exactly it (log entry 7). -/
def State.withFetchWord (s : State) (nbits w : Nat) : State :=
  { s with q := [BitVec.ofNat 64 (w % 2 ^ nbits)], host := .tick :: s.host }

end Sys2Proof.Machine
end

