-- ==== Sys2Proof/Machine/Assembler.lean ====
section
/-! DEFINITION. The spec's assembler (R72) and its pseudo-instructions (R73): text to command words. It is no part of the
block; it says how the host writes words. -/

namespace Sys2Proof.Machine

/-- `SLOT_CLEAR s<n>` (R73). -/
def asmSlotClear (slot : BitVec 8) : List Instr := [.slotRoute slot false 0 0, .slotIntensity slot F32.zero]

/-- `MOD s<n>, <source>, <param>, <real>` (R73). -/
def asmMod (slot src : BitVec 8) (tgt : BitVec 16) (x : F32) : List Instr :=
  [.slotIntensity slot x, .slotRoute slot true src tgt]

/-- `ALL_NOTES_OFF`: 32 words, ascending (R73). -/
def asmAllNotesOff : List Instr := (List.range 32).map (fun v => .noteOff (BitVec.ofNat 8 v))

/-- `PANIC_SOURCES` (R73). -/
def asmPanicSources : List Instr :=
  [.aftertouch, .pitchWheel, .modWheel, .glfo 0, .glfo 1].map (fun s => .setGsrc (sourceBits s) F32.zero)

/-- A list cut at every `c`; the pieces do not hold it. -/
def splitChars (c : Char) : List Char → List (List Char)
  | [] => [[]]
  | x :: xs =>
    match splitChars c xs with
    | [] => [[x]]
    | p :: ps => if x = c then [] :: p :: ps else (x :: p) :: ps

/-- A blank of the assembler's text. -/
def isBlank (c : Char) : Bool := c = ' ' || c = '\t' || c = '\r'

/-- A text without the blanks at its two ends. -/
def trimChars (cs : List Char) : List Char := ((cs.dropWhile isBlank).reverse.dropWhile isBlank).reverse

/-- The value of a decimal digit. -/
def decDigit (c : Char) : Option Nat :=
  if 48 ≤ c.toNat ∧ c.toNat ≤ 57 then some (c.toNat - 48) else none

/-- The value of a hexadecimal digit. -/
def hexDigit (c : Char) : Option Nat :=
  if 65 ≤ c.toNat ∧ c.toNat ≤ 70 then some (c.toNat - 55)
  else if 97 ≤ c.toNat ∧ c.toNat ≤ 102 then some (c.toNat - 87)
  else decDigit c

/-- The number the digits of a text stand for, after a part `acc`; none if a character is no digit. -/
def digitsFrom (base : Nat) (digit : Char → Option Nat) : List Char → Nat → Option Nat
  | [], acc => some acc
  | c :: cs, acc => (digit c).bind (fun d => digitsFrom base digit cs (base * acc + d))

/-- A decimal number of at least one digit. -/
def parseDec (cs : List Char) : Option Nat := if cs.isEmpty then none else digitsFrom 10 decDigit cs 0

/-- A hexadecimal number of exactly `n` digits. -/
def parseHex (n : Nat) (cs : List Char) : Option Nat := if cs.length = n then digitsFrom 16 hexDigit cs 0 else none

/-- The rest of a text after a prefix it must have. -/
def afterPrefix (pre : List Char) (cs : List Char) : Option (List Char) :=
  if cs.take pre.length = pre then some (cs.drop pre.length) else none

/-- A number below 256 as an 8-bit operand. -/
def byteOperand (n : Nat) : Option (BitVec 8) := if n < 256 then some (BitVec.ofNat 8 n) else none

/-- A decimal literal's digits after its sign, as the nearest binary32 value (R72). DESIGN CHOICE: a tie goes to the even
significand, a literal past the largest finite value (from half a last place above it on) gives an infinity, whose word the
block rejects, and `-0` gives `-0.0` (log entry 20). -/
def parseUnsignedReal (neg : Bool) (cs : List Char) : Option F32 :=
  match splitChars '.' cs with
  | [whole] => (parseDec whole).map (fun n => F32.ofRatio neg (n * 2 ^ 149) 1)
  | [whole, frac] => do
    let _ ← parseDec whole
    let _ ← parseDec frac
    let n ← parseDec (whole ++ frac)
    return F32.ofRatio neg (n * 2 ^ 149) (10 ^ frac.length)
  | _ => none

/-- `<real>`: a decimal literal, or `f32:0x` and 8 hexadecimal digits (R72). -/
def parseReal (cs : List Char) : Option F32 :=
  match afterPrefix ['f', '3', '2', ':', '0', 'x'] cs with
  | some hs => (parseHex 8 hs).map (fun n => BitVec.ofNat 32 n)
  | none =>
    match cs with
    | '-' :: ds => parseUnsignedReal true ds
    | ds => parseUnsignedReal false ds

/-- The position of a name in a list of names. -/
def nameIndex (names : List String) (cs : List Char) : Option Nat :=
  names.findIdx? (fun s => s.toList == cs)

/-- The field names of an oscillator, by index (R72). -/
def oscFields : List String :=
  ["table", "level", "tune", "fine", "wave_pos", "unison", "spread", "sync", "sync_leader", "bypass"]

/-- The field names of a filter, by index (R72). -/
def fltFields : List String := ["mode", "cutoff", "resonance"]

/-- The field names of an envelope, by index (R72). -/
def envFields : List String :=
  ["attack", "decay", "sustain", "release", "attack_slope", "decay_slope", "release_slope"]

/-- The source names with their identifiers (R32, R72). -/
def sourceNames : List (String × BitVec 8) :=
  [("none", 0x00), ("aftertouch", 0x01), ("pitch_wheel", 0x02), ("mod_wheel", 0x03), ("glfo0", 0x04), ("glfo1", 0x05),
   ("velocity", 0x10), ("osc0", 0x11), ("osc1", 0x12), ("osc2", 0x13), ("env0", 0x14), ("env1", 0x15), ("env2", 0x16),
   ("lfo0", 0x18), ("lfo1", 0x19)]

/-- `<source>` (R72). -/
def parseSource (cs : List Char) : Option (BitVec 8) :=
  (sourceNames.find? (fun e => e.1.toList == cs)).map (fun e => e.2)

/-- `<unit><instance>.<field>`, the identifier `kind * 0x1000 + instance * 0x100 + index` (R20, R72). -/
def parseUnit (unit : List Char) (kind count : Nat) (fields : List String) (cs : List Char) : Option (BitVec 16) := do
  let rest ← afterPrefix unit cs
  match rest with
  | c :: '.' :: name => do
    let k ← decDigit c
    let i ← nameIndex fields name
    if k < count then some (BitVec.ofNat 16 (kind * 0x1000 + k * 0x100 + i)) else none
  | _ => none

/-- `<param>`: a field of an oscillator, filter or envelope, a global, or a raw identifier (R72). R72 shows a raw identifier
only by `pid:0x1102`; DESIGN CHOICE exactly 4 hexadecimal digits, of either case (log entry 20). -/
def parseParam (cs : List Char) : Option (BitVec 16) :=
  (parseUnit ['o', 's', 'c'] 1 3 oscFields cs).orElse fun _ =>
  (parseUnit ['f', 'l', 't'] 2 2 fltFields cs).orElse fun _ =>
  (parseUnit ['e', 'n', 'v'] 3 3 envFields cs).orElse fun _ =>
  if cs = "glb.routing".toList then some 0x4000
  else if cs = "glb.volume".toList then some 0x4001
  else (afterPrefix ['p', 'i', 'd', ':', '0', 'x'] cs).bind fun hs => (parseHex 4 hs).map (BitVec.ofNat 16)

/-- `<param or none>` (R72). -/
def parseTarget (cs : List Char) : Option (BitVec 16) := if cs = "none".toList then some 0 else parseParam cs

/-- `v<voice>` or `s<slot>` (R72). -/
def parseIndexed (letter : Char) (cs : List Char) : Option (BitVec 8) :=
  (afterPrefix [letter] cs).bind fun ds => (parseDec ds).bind byteOperand

/-- A decimal note or velocity (R72). -/
def parseByte (cs : List Char) : Option (BitVec 8) := (parseDec cs).bind byteOperand

/-- `on` or `off` (R72). -/
def parseSwitch (cs : List Char) : Option Bool :=
  if cs = "on".toList then some true else if cs = "off".toList then some false else none

/-- The commands of one mnemonic with its operands, pseudo-instructions expanded (R72, R73). -/
def asmCommand (mnemonic : String) (ops : List (List Char)) : Option (List Instr) :=
  match mnemonic, ops with
  | "NOP", [] => some [.nop]
  | "WRITE_PARAM", [p, x] => do return [.writeParam (← parseParam p) (← parseReal x)]
  | "NOTE_ON", [v, n, w] => do return [.noteOn (← parseIndexed 'v' v) (← parseByte n) (← parseByte w)]
  | "NOTE_OFF", [v] => do return [.noteOff (← parseIndexed 'v' v)]
  | "STEAL", [v, n, w] => do return [.steal (← parseIndexed 'v' v) (← parseByte n) (← parseByte w)]
  | "SLOT_ROUTE", [s, r, t, e] => do
    return [.slotRoute (← parseIndexed 's' s) (← parseSwitch e) (← parseSource r) (← parseTarget t)]
  | "SLOT_INTENSITY", [s, x] => do return [.slotIntensity (← parseIndexed 's' s) (← parseReal x)]
  | "SET_GSRC", [r, x] => do return [.setGsrc (← parseSource r) (← parseReal x)]
  | "SET_LSRC", [v, r, x] => do return [.setLsrc (← parseIndexed 'v' v) (← parseSource r) (← parseReal x)]
  | "SLOT_CLEAR", [s] => do return asmSlotClear (← parseIndexed 's' s)
  | "MOD", [s, r, p, x] => do
    return asmMod (← parseIndexed 's' s) (← parseSource r) (← parseParam p) (← parseReal x)
  | "ALL_NOTES_OFF", [] => some asmAllNotesOff
  | "PANIC_SOURCES", [] => some asmPanicSources
  | _, _ => none

/-- The operands of a text after the mnemonic: cut at the commas, blanks trimmed; an empty text has none (R72). -/
def asmOperands (cs : List Char) : List (List Char) :=
  if (trimChars cs).isEmpty then [] else (splitChars ',' cs).map trimChars

/-- The commands of one line: a comment runs from `;` to its end, and a line with no command gives none (R72). -/
def asmLine (cs : List Char) : Option (List Instr) :=
  let text := trimChars (cs.takeWhile (fun c => c != ';'))
  if text.isEmpty then some []
  else asmCommand (String.ofList (text.takeWhile (fun c => !isBlank c))) (asmOperands (text.dropWhile (fun c => !isBlank c)))

/-- The words of a program text, one command a line; none if a line is no command (R72). -/
def assemble (program : String) : Option (List Word) :=
  ((splitChars '\n' program.toList).mapM asmLine).map (fun is => is.flatten.map encode)

end Sys2Proof.Machine
end

