-- ==== Sys2Proof/WellFormed.lean ====
section
/-! DEFINITION. Which commands have operands in their legal sets (R66, R71). The machine performs the others too: it
rejects them, with the cause of R138. -/

namespace Sys2Proof

/-- A finite binary32 operand (R77, R82 to R84). -/
def legalVal (x : F32) : Bool := F32.isFinite x

/-- A voice index, `< NVOICES` (R66). -/
def legalVoice (v : BitVec 8) : Bool := decide (v.toNat < nVoices)

/-- A note number or velocity, `< 128` (R66). -/
def legalNote (n : BitVec 8) : Bool := decide (n.toNat < 128)

/-- A slot index of an instance with `nSlots` slots (R66). -/
def legalSlot (nSlots : Nat) (s : BitVec 8) : Bool := decide (s.toNat < nSlots)

/-- The routing a slot may be given (R81): known source and target, both present and of compatible scope if enabled. -/
def legalRoute (en : Bool) (src : BitVec 8) (tgt : BitVec 16) : Bool :=
  (src == 0 || (Machine.sourceOfBits src).isSome) &&
  (tgt == 0 || ((Machine.pidOfBits tgt).map Machine.isModulatable).getD false) &&
  (!en || (src != 0 && tgt != 0 &&
    !(((Machine.sourceOfBits src).map Machine.isLocalSource).getD false &&
      ((Machine.pidOfBits tgt).map Machine.isGlobal).getD false)))

/-- Every operand lies in its legal set, for an instance with `nSlots` slots: no check of R140 fails. -/
def Instr.wellFormed (nSlots : Nat) : Instr → Bool
  | .nop => true
  | .writeParam pid val => (Machine.pidOfBits pid).isSome && legalVal val
  | .noteOn voice note vel => legalVoice voice && legalNote note && legalNote vel
  | .noteOff voice => legalVoice voice
  | .steal voice note vel => legalVoice voice && legalNote note && legalNote vel
  | .slotRoute slot en src tgt => legalSlot nSlots slot && legalRoute en src tgt
  | .slotIntensity slot val => legalSlot nSlots slot && legalVal val
  | .setGsrc src val => (Machine.gsrcIndex src).isSome && legalVal val
  | .setLsrc voice src val => legalVoice voice && (Machine.lsrcIndex src).isSome && legalVal val

end Sys2Proof
end

