-- ==== Sys2Proof/Safety.lean ====
section
/-! DEFINITION. What counts as a safe run of the block: every step completes (R137), and the invariants its registers
keep (R22, R28, R31, R32, R36, R97, R100, R104, R124). Also the terms the claims are stated in. -/

namespace Sys2Proof.Machine

/-- A step or a command that goes on (R137). -/
def Completes (r : Result) : Prop := ∃ t : State, r = .next t

/-- `lo ≤ x ≤ hi`; false of a NaN. -/
def inRange (x lo hi : F32) : Bool := F32.le lo x && F32.le x hi

/-- Sizes never change (R40, R100): `NSLOTS` slots, at most `QCAP` queued words, `B` samples for each voice. -/
def ShapeOk (s : State) : Prop :=
  s.cfg.wf = true ∧ s.slots.length = s.cfg.nSlots ∧ s.q.length ≤ s.cfg.qcap ∧
  ∀ v : Fin 32, s.out[v.val].length = s.cfg.block

/-- Every base register lies in its range, an integer one on an integer (R21, R22, R28). -/
def PatchOk (s : State) : Prop :=
  ∀ pid : Pid, inRange (readParam s.p pid) (paramRange pid).1 (paramRange pid).2 = true ∧
    (isInteger pid = true → ∃ n : Nat, readParam s.p pid = F32.ofNat n)

/-- A slot's target is modulatable, its intensity lies in `[-1, 1]`, and an enabled slot has a source and a target of
compatible scope (R31). -/
def SlotOk (x : Slot) : Prop :=
  (∀ p, x.tgt = some p → isModulatable p = true) ∧
  (x.en = true → ∃ src p, x.src = some src ∧ x.tgt = some p ∧ (isLocalSource src && isGlobal p) = false) ∧
  inRange x.intensity F32.minusOne F32.one = true

/-- Every slot is legal (R31). -/
def SlotsOk (s : State) : Prop := ∀ x ∈ s.slots, SlotOk x

/-- Every source input lies in its range (R32, R33). -/
def SourcesOk (s : State) : Prop :=
  (∀ i : Fin 5, inRange s.gsrc[i.val] (gsrcRange i).1 (gsrcRange i).2 = true) ∧
  ∀ (v : Fin 32) (i : Fin 2), inRange s.voices[v.val].lsrc[i.val] F32.minusOne F32.one = true

/-- Every envelope's level and start lie in `[0, 1]` (R37, R124). -/
def EnvelopesOk (s : State) : Prop :=
  ∀ (v : Fin 32) (e : Fin 3),
    inRange s.voices[v.val].env[e.val].level F32.zero F32.one = true ∧
    inRange s.voices[v.val].env[e.val].start F32.zero F32.one = true

/-- `0 ≤ x < 1` (R35). -/
def inUnit (x : F32) : Bool := F32.le F32.zero x && F32.lt x F32.one

/-- Every phase lies in `[0, 1)` (R35, R104). -/
def PhasesOk (s : State) : Prop :=
  ∀ (v : Fin 32) (k : Fin 3) (i : Fin 7), inUnit s.voices[v.val].osc[k.val].ph[i.val] = true

/-- An Idle voice is not fading (R97), and a fade is never longer than FADE (R34). -/
def FadesOk (s : State) : Prop :=
  ∀ v : Fin 32, (s.voices[v.val].stage = .idle → s.voices[v.val].fade = 0) ∧ s.voices[v.val].fade ≤ s.cfg.fadeLen

/-- The same value, or two NaNs: a NaN's payload is open (93_implementation_defined.md). -/
def sameOrNan (a b : F32) : Prop := a = b ∨ (F32.isNaN a = true ∧ F32.isNaN b = true)

/-- Coefficients equal up to NaN payloads. -/
def sameCoefs (a b : Coefs) : Prop :=
  sameOrNan a.g b.g ∧ sameOrNan a.k b.k ∧ sameOrNan a.a1 b.a1 ∧ sameOrNan a.a2 b.a2 ∧ sameOrNan a.a3 b.a3

/-- A valid coefficient cache is the function of its key (R36). -/
def CachesOk (s : State) : Prop :=
  ∀ (v : Fin 32) (f : Fin 2), s.voices[v.val].flt[f.val].cvalid = true →
    sameCoefs s.voices[v.val].flt[f.val].coefs (fltCoef s.cfg s.voices[v.val].flt[f.val].key)

/-- Whether the next step is a block step: the clock ticks next, or no move is listed (log entry 6). -/
def ticks (s : State) : Bool :=
  match s.host with
  | [] => true
  | .tick :: _ => true
  | .push _ :: _ | .transport _ _ :: _ | .readSnap :: _ | .readOut :: _ => false

/-- The state the queue is drained in by the next block step: the tick is used up. -/
def atTick (s : State) : State := { s with host := s.host.tail }

/-- What a rejection with a code leaves (R139): one more rejection counted, its code kept, STATUS bit 1 set. -/
def rejectedState (code : BitVec 8) (s : State) : State :=
  { s with cnt := { s.cnt with err := s.cnt.err + 1, lastErr := code }, status := s.status ||| 0b0010#4 }

/-- The code the first failing check of a command records, in the order of R140 with the codes of R138; none if every
check passes. -/
def firstCode (nSlots : Nat) : Instr → Option (BitVec 8)
  | .nop => none
  | .writeParam pid val =>
    if pidOfBits pid = none then some 4 else if F32.isFinite val = false then some 5 else none
  | .noteOn voice note vel =>
    if 32 ≤ voice.toNat then some 3 else if 128 ≤ note.toNat ∨ 128 ≤ vel.toNat then some 10 else none
  | .noteOff voice => if 32 ≤ voice.toNat then some 3 else none
  | .steal voice note vel =>
    if 32 ≤ voice.toNat then some 3 else if 128 ≤ note.toNat ∨ 128 ≤ vel.toNat then some 10 else none
  | .slotRoute slot en src tgt =>
    if nSlots ≤ slot.toNat then some 6
    else if src ≠ 0 ∧ sourceOfBits src = none then some 7
    else if tgt ≠ 0 ∧ ((pidOfBits tgt).map isModulatable).getD false = false then some 8
    else if en = true ∧ (src = 0 ∨ tgt = 0) then some 11
    else if en = true ∧ ((sourceOfBits src).map isLocalSource).getD false = true ∧
        ((pidOfBits tgt).map isGlobal).getD false = true then some 9
    else none
  | .slotIntensity slot val =>
    if nSlots ≤ slot.toNat then some 6 else if F32.isFinite val = false then some 5 else none
  | .setGsrc src val =>
    if src.toNat = 0 ∨ 5 < src.toNat then some 7 else if F32.isFinite val = false then some 5 else none
  | .setLsrc voice src val =>
    if 32 ≤ voice.toNat then some 3
    else if src ≠ 0x18#8 ∧ src ≠ 0x19#8 then some 7
    else if F32.isFinite val = false then some 5 else none

/-- The RSV bits of the format an opcode selects (R64, R65). -/
def rsvBits (op : BitVec 8) : Word :=
  if op = 0x00#8 then 0x00FFFFFFFFFFFFFF#64
  else if op = 0x01#8 then 0x000000FF00000000#64
  else if op = 0x02#8 then 0x00000000FFFFFFFF#64
  else if op = 0x03#8 then 0x0000FFFFFFFFFFFF#64
  else if op = 0x04#8 then 0x00000000FFFFFFFF#64
  else if op = 0x05#8 then 0x0000FE000000FFFF#64
  else if op = 0x06#8 then 0x0000FFFF00000000#64
  else if op = 0x07#8 then 0x0000FFFF00000000#64
  else if op = 0x08#8 then 0x000000FF00000000#64
  else 0

/-- `new` is `old` with its oscillators, filter states and fade fields at their reset values; effective values, LFO inputs
and coefficient caches are kept (R95). -/
def UnitsReset (old new : Voice) : Prop :=
  new.fade = 0 ∧ new.pend = false ∧ new.pnote = 0 ∧ new.pvel = 0 ∧
  (∀ (k : Fin 3) (i : Fin 7), new.osc[k.val].ph[i.val] = F32.div (F32.ofNat i.val) (0x40E00000#32)) ∧
  (∀ k : Fin 3, new.osc[k.val].last = F32.zero) ∧
  (∀ f : Fin 2, new.flt[f.val] = { old.flt[f.val] with ic1 := F32.zero, ic2 := F32.zero }) ∧
  new.eff = old.eff ∧ new.lsrc = old.lsrc

/-- `new` is `old` with a note just started on it (R94, R95). -/
def Started (note vel : BitVec 7) (old new : Voice) : Prop :=
  new.stage = .active ∧ new.note = note ∧ new.vel = vel ∧ UnitsReset old new ∧
  ∀ e : Fin 3, new.env[e.val] = ⟨.attack, F32.zero, F32.zero, 0⟩

/-- `new` is `old` gone Idle at the end of a fade with no note waiting (R95, R97). -/
def Silenced (old new : Voice) : Prop :=
  new.stage = .idle ∧ new.note = old.note ∧ new.vel = old.vel ∧ UnitsReset old new ∧
  ∀ e : Fin 3, new.env[e.val] = ⟨.idle, F32.zero, F32.zero, 0⟩

/-- What the enabled slots with target `pid` contribute, in ascending slot order: `(source * intensity) * span` (R130). -/
def contributions (value : Source → F32) (pid : Pid) (slots : List Slot) : List F32 :=
  slots.filterMap (fun x =>
    if x.en = true ∧ x.tgt = some pid then
      x.src.map (fun src => F32.mul (F32.mul (value src) x.intensity)
        (F32.sub (paramRange pid).2 (paramRange pid).1))
    else none)

/-- The sum of the contributions to `pid`, from `+0.0`, one rounding an addition (R130, R134). -/
def modSum (value : Source → F32) (pid : Pid) (slots : List Slot) : F32 :=
  (contributions value pid slots).foldl F32.add F32.zero

/-- `y` is `Lookup(t, w, ph)`, written out: the frames' samples at the two indices around the phase, interpolated, and then
the two frames around the scan position (R107, R108). -/
def LooksUp (l : Nat) (frames : List (List F32)) (w ph y : F32) : Prop :=
  ∃ (x fr : F32) (i0 : Nat) (value : Nat → F32),
    x = F32.mul ph (F32.ofNat l) ∧ fr = F32.sub x (F32.ofInt (F32.floor x)) ∧
    i0 = (if l ≤ (F32.floor x).toNat then (F32.floor x).toNat - l else (F32.floor x).toNat) ∧
    (∀ j, value j = F32.add (tableRead frames j i0)
      (F32.mul fr (F32.sub (tableRead frames j ((i0 + 1) % l)) (tableRead frames j i0)))) ∧
    (frames.length ≤ 1 → y = value 0) ∧
    (2 ≤ frames.length → ∃ (z : F32) (j0 : Nat), z = F32.mul w (F32.ofNat (frames.length - 1)) ∧
      j0 = min (F32.floor z).toNat (frames.length - 2) ∧
      y = F32.add (value j0) (F32.mul (F32.sub z (F32.ofNat j0)) (F32.sub (value (j0 + 1)) (value j0))))

/-- `y` is the output of oscillator `k` of a voice, written out: the looked-up values of the instances below UNISON summed
in ascending order from `+0.0`, times `1 / sqrt(UNISON)`, times LEVEL (R106, R109, R110). -/
def OscOutput (c : Params) (p : Vector F32 59) (vc : Voice) (k : Fin 3) (y : F32) : Prop :=
  ∃ value : Nat → F32,
    (∀ i : Fin 7, i.val < intParam p (.osc k .unison) →
      LooksUp c.frameLen
        (c.frames (if intParam p (.osc k .table) < c.nTables then intParam p (.osc k .table) else 0))
        (readEff p vc (.osc k .wavePos)) vc.osc[k.val].ph[i.val] (value i.val)) ∧
    y = F32.mul (F32.mul
        (((List.range (min (intParam p (.osc k .unison)) 7)).map value).foldl F32.add F32.zero)
        (F32.div F32.one (F32.sqrt (F32.ofNat (intParam p (.osc k .unison))))))
      (readEff p vc (.osc k .level))

/-- `t` and `y` are filter `s` and its output after one sample with input `x`, written out (R114). -/
def FilterSampled (mode : Nat) (x : F32) (s t : Flt) (y : F32) : Prop :=
  ∃ v1 v2 v3 : F32, v3 = F32.sub x s.ic2 ∧
    v1 = F32.add (F32.mul s.coefs.a1 s.ic1) (F32.mul s.coefs.a2 v3) ∧
    v2 = F32.add (F32.add s.ic2 (F32.mul s.coefs.a2 s.ic1)) (F32.mul s.coefs.a3 v3) ∧
    t = { s with ic1 := F32.sub (F32.mul F32.two v1) s.ic1, ic2 := F32.sub (F32.mul F32.two v2) s.ic2 } ∧
    y = if mode = 0 then v2 else if mode = 1 then F32.sub (F32.sub x (F32.mul s.coefs.k v1)) v2 else v1

/-- The sum of the outputs `o k` of the oscillators whose BYPASS is 1 (`bypass`) or is not, in ascending order from
`+0.0` (R92). -/
def busSum (p : Vector F32 59) (bypass : Bool) (o : Fin 3 → F32) : F32 :=
  ((List.finRange 3).filter (fun k => decide (intParam p (.osc k .bypass) = 1) == bypass)).foldl
    (fun acc k => F32.add acc (o k)) F32.zero

/-- `new` and `y` are a sounding voice and its output after one sample, written out: oscillators, routing through the two
filters, amplitude; the units as stepped (the phases as `stepOscs` steps them, which O52 writes out), unless this is the
last sample of a fade; and beside the units only the stage, or during a fade only its counter, can have changed (R89, R92,
R93, R96, R97, R110). -/
def Sampled (c : Params) (p : Vector F32 59) (d v n : Nat) (vc new : Voice) (y : F32) : Prop :=
  ∃ (o : Fin 3 → F32) (f0 f1 : Flt) (y0 y1 : F32),
    (∀ k : Fin 3, OscOutput c p vc k (o k)) ∧
    FilterSampled (intParam p (.flt 0 .mode)) (busSum p false o) vc.flt[0] f0 y0 ∧
    FilterSampled (intParam p (.flt 1 .mode))
      (if intParam p (.glb .routing) = 0 then busSum p false o else y0) vc.flt[1] f1 y1 ∧
    y = F32.mul
      (F32.mul (F32.add (if intParam p (.glb .routing) = 0 then F32.add y0 y1 else y1) (busSum p true o))
        (envStep c (envParamsOf p vc 0) vc.env[0]).level)
      (if 0 < vc.fade then F32.div (F32.ofNat (vc.fade - 1)) (F32.ofNat c.fadeLen) else F32.one) ∧
    (vc.fade ≠ 1 →
      new.flt[0] = f0 ∧ new.flt[1] = f1 ∧ (∀ k : Fin 3, sameOrNan new.osc[k.val].last (o k)) ∧
      new.osc[0].ph = (stepOscs c p d v n vc).1.osc.ph ∧ new.osc[1].ph = (stepOscs c p d v n vc).2.1.osc.ph ∧
      new.osc[2].ph = (stepOscs c p d v n vc).2.2.osc.ph ∧
      ∀ e : Fin 3, new.env[e.val] = envStep c (envParamsOf p vc e) vc.env[e.val]) ∧
    (vc.fade = 0 → new = { vc with stage := new.stage, env := new.env, osc := new.osc, flt := new.flt }) ∧
    (1 < vc.fade → new = { vc with fade := vc.fade - 1, env := new.env, osc := new.osc, flt := new.flt })

/-- `count` samples of one voice alone, from sample `n` on: the voice after them and what it left in its buffer (R88, R89). -/
def renderVoice (c : Params) (p : Vector F32 59) (d v : Nat) : Nat → Nat → Voice → Voice × List F32
  | 0, _, vc => (vc, [])
  | count + 1, n, vc =>
    let r := voiceSample c p d v n vc
    let rest := renderVoice c p d v count (n + 1) r.1
    (rest.1, F32.settle d (.out v n) r.2 :: rest.2)

/-- Filter `f` of voice `v` as the samples of the block left it, before the guard (R91, R117); `u` is the state after the
drain. -/
def unguarded (u : State) (v : Fin 32) (f : Fin 2) : Flt :=
  (renderVoice u.cfg u.p u.draw v.val u.cfg.block 0 (blockPrepare (resolveMatrix u)).voices[v.val]).1.flt[f.val]

/-- An envelope after `n` samples (R121). -/
def envSteps (c : Params) (q : EnvParams) : Nat → Env → Env
  | 0, e => e
  | n + 1, e => envStep c q (envSteps c q n e)

/-- The rational value of a finite binary32. -/
def valueOf (x : F32) : Rat := (F32.toUnits x : Rat) / 2 ^ 149

/-- `r` is the exact result `q` rounded to binary32, to nearest with ties to even: no finite value is nearer, a tie goes
to the even significand, and from half a last place above the largest finite value on the result is infinite (R9). -/
def RoundsTo (q : Rat) (r : F32) : Prop :=
  if (2 : Rat) ^ 128 - 2 ^ 103 ≤ |q| then F32.isInf r = true ∧ F32.sign r = decide (q < 0)
  else F32.isFinite r = true ∧ ∀ c : F32, F32.isFinite c = true →
    |valueOf r - q| ≤ |valueOf c - q| ∧
    (valueOf c ≠ valueOf r → |valueOf r - q| = |valueOf c - q| → r.toNat % 2 = 0)

/-- `r` is the square root of `x` rounded to nearest (no tie can occur): between any finite `c` and `r`, the root lies on
the side of `r` (R9). -/
def RootRoundsTo (x r : F32) : Prop :=
  F32.isFinite r = true ∧ 0 ≤ valueOf r ∧ ∀ c : F32, F32.isFinite c = true → 0 ≤ valueOf c →
    (valueOf r < valueOf c → 4 * valueOf x ≤ (valueOf r + valueOf c) ^ 2) ∧
    (valueOf c < valueOf r → (valueOf r + valueOf c) ^ 2 ≤ 4 * valueOf x)

end Sys2Proof.Machine
end

