-- ==== Sys2Proof/Certificates/Slice0/Obligations.lean ====
section
/-! DEFINITION. The statements about the block, from the rules of spec/. In every statement about a step, `u` is the state
after the drain and `t` the state after the step. -/

open Sys2Proof Sys2Proof.Machine

/-! ## Encoding and transport -/

/-- O1. R65, R66: decoding the word of any command, whatever its operands, gives the command back. -/
def Obligations.DecodeEncodeRoundTrip : Prop := ∀ i : Instr, decodeWord (encode i) = .ok i

/-- O2. R67: a word decodes to at most one command, and to no other word's: it is that command's encoding. -/
def Obligations.AcceptedWordIsEncoding : Prop := ∀ (w : Word) (i : Instr), decodeWord w = .ok i → encode i = w

/-- O3. R69, R70: a word with a reserved opcode, or with a valid opcode and an RSV bit set, changes nothing but the
rejection counter, the last cause and the rejection flag, whatever its operands. -/
def Obligations.MalformedWordsAreRejected : Prop :=
  ∀ (w : Word) (s : State),
    (0x09 ≤ (opcodeOf w).toNat → apply w s = .next (rejectedState 1 s)) ∧
    ((opcodeOf w).toNat ≤ 0x08 → w &&& rsvBits (opcodeOf w) ≠ 0 → apply w s = .next (rejectedState 2 s))

/-- O4. R74: the encoding examples, decoded and assembled. -/
def Obligations.SpecWordsDecode : Prop :=
  decodeWord 0x0000000000000000#64 = .ok .nop ∧
  decodeWord 0x0110020041400000#64 = .ok (.writeParam 0x1002 0x41400000#32) ∧
  decodeWord 0x01200100447A0000#64 = .ok (.writeParam 0x2001 0x447A0000#32) ∧
  decodeWord 0x0203457F00000000#64 = .ok (.noteOn 3 69 127) ∧
  decodeWord 0x0303000000000000#64 = .ok (.noteOff 3) ∧
  decodeWord 0x04003C6400000000#64 = .ok (.steal 0 60 100) ∧
  decodeWord 0x0500011020010000#64 = .ok (.slotRoute 0 true 0x10 0x2001) ∧
  decodeWord 0x060000003F000000#64 = .ok (.slotIntensity 0 0x3F000000#32) ∧
  decodeWord 0x070300003E800000#64 = .ok (.setGsrc 0x03 0x3E800000#32) ∧
  decodeWord 0x08021900BF000000#64 = .ok (.setLsrc 2 0x19 0xBF000000#32) ∧
  assemble ("NOP\nWRITE_PARAM osc0.tune, 12.0\nWRITE_PARAM flt0.cutoff, 1000.0\nNOTE_ON v3, 69, 127\nNOTE_OFF v3\n" ++
      "STEAL v0, 60, 100\nSLOT_ROUTE s0, velocity, flt0.cutoff, on\nSLOT_INTENSITY s0, 0.5\n" ++
      "SET_GSRC mod_wheel, 0.25\nSET_LSRC v2, lfo1, -0.5") =
    some [0x0000000000000000#64, 0x0110020041400000#64, 0x01200100447A0000#64, 0x0203457F00000000#64,
      0x0303000000000000#64, 0x04003C6400000000#64, 0x0500011020010000#64, 0x060000003F000000#64,
      0x070300003E800000#64, 0x08021900BF000000#64]

/-- O5. R49, R50, R58: byte `b` of a word on the transport is `W[8b+7 : 8b]`; a stream of bytes holds its whole words, and
fewer than 8 at its end hold none; the 8 bytes of a word are one step of the host, one push of that word, and words sent one
after the other are pushed in order, one a step; fewer than 8 bytes push nothing. That a part of a word is not kept for the
bytes that come next is the model's choice (log entry 16). -/
def Obligations.TransportDeliversWords : Prop :=
  (∀ (w : Word) (b : Fin 8), (bytesOfWord w)[b.val]? = some (w.extractLsb' (8 * b.val) 8)) ∧
  (∀ (ws : List Word) (bs : List Byte), bs.length < 8 → wordsOfBytes (ws.flatMap bytesOfWord ++ bs) = ws) ∧
  (∀ (w : Word) (s : State) (rest : List HostMove), s.host = .transport (wordBytes w) 8 :: rest →
    step s = .next (queuePush w { s with host := rest })) ∧
  (∀ (bs : Vector Byte 8) (got : Fin 9) (s : State) (rest : List HostMove), got.val < 8 →
    s.host = .transport bs got :: rest → step s = .next { s with host := rest }) ∧
  ∀ (ws : List Word) (s : State) (rest : List HostMove),
    s.host = ws.map (fun w => .transport (wordBytes w) 8) ++ rest →
    core.run ws.length s = .next (ws.foldl (fun s w => queuePush w s) { s with host := rest } : State)

/-! ## Steps, queue and order -/

/-- O6. R55, R75, R86: a step with one queued word runs exactly that command, and then renders the block. The second
clause says it of the host's own placement of a word. -/
def Obligations.StepRunsDecodedInstruction : Prop :=
  (∀ (s : State) (w : Word) (i : Instr), ticks s = true → s.q = [w] → decodeWord w = .ok i →
    ∃ u, exec i { s with q := [], host := s.host.tail } = .next u ∧ step s = .next (renderStep u)) ∧
  ∀ (s : State) (nbits w : Nat) (i : Instr), decodeTableWord nbits w = some i →
    ∃ u, exec i { s with q := [] } = .next u ∧ step (s.withFetchWord nbits w) = .next (renderStep u)

/-- O7. R55 to R57: draining an empty queue changes nothing; a drain empties the queue and applies its words one at a time,
oldest first: with one more word pushed it does the rest and then that word. All of it comes before the block is
rendered. -/
def Obligations.DrainIsSequential : Prop :=
  (∀ s : State, s.q = [] → queueDrain s = .next s) ∧
  ∀ (s u : State), queueDrain s = .next u →
    u.q = [] ∧
    (∀ w : Word, s.q.length < s.cfg.qcap → queueDrain (queuePush w s) = apply w u) ∧
    (∀ s', ticks s' = true → atTick s' = s → step s' = .next (renderStep u))

/-- O8. R137, R167: every step of either agent completes, in every state. -/
def Obligations.EveryStepCompletes : Prop := ∀ s : State, Completes (step s)

/-- O9. R54: a push appends the word; into a full queue, the oldest word is discarded, counted and flagged. The host's
move does nothing else. -/
def Obligations.PushEffect : Prop :=
  ∀ (w : Word) (s : State) (rest : List HostMove), s.host = .push w :: rest →
    (s.q.length < s.cfg.qcap → step s = .next { s with host := rest, q := s.q ++ [w] }) ∧
    (s.cfg.qcap ≤ s.q.length → step s = .next
      { s with host := rest, q := s.q.tail ++ [w], cnt := { s.cnt with drop := s.cnt.drop + 1 },
               status := s.status ||| 0b0001#4 })

/-- O10. R162: of the words pushed between two block steps the last `QCAP` stay, in order, and the drop counter grows by
the number lost. -/
def Obligations.OverflowKeepsNewest : Prop :=
  ∀ (ws : List Word) (s : State), 1 ≤ s.cfg.qcap → s.q.length ≤ s.cfg.qcap →
    ws.foldl (fun s w => queuePush w s) s =
      { s with
        q := (s.q ++ ws).drop ((s.q ++ ws).length - s.cfg.qcap)
        cnt := { s.cnt with drop := s.cnt.drop + BitVec.ofNat 32 ((s.q ++ ws).length - s.cfg.qcap) }
        status := if (s.q ++ ws).length ≤ s.cfg.qcap then s.status else s.status ||| 0b0001#4 }

/-- O11. R51, R58, R150: a move of the host that is no clock tick touches the queue, the drop counter and the overflow
flag only, and a read of the snapshot or the outputs touches nothing. -/
def Obligations.HostMovesTouchOnlyTheQueue : Prop :=
  ∀ (s t : State), ticks s = false → step s = .next t →
    { t with q := s.q, cnt := { t.cnt with drop := s.cnt.drop }, status := s.status, host := s.host } = s ∧
    t.host = s.host.tail ∧ (∃ b : Bool, t.status = s.status ||| (if b then 0b0001#4 else 0)) ∧
    (s.host.head? = some .readSnap ∨ s.host.head? = some .readOut → t = { s with host := s.host.tail })

/-! ## The commands -/

/-- O12. R76: NOP changes nothing; the other words with its opcode are rejected; it occupies a queue entry, so that it can
cause or suffer an overflow. -/
def Obligations.NopResult : Prop :=
  ∀ s : State,
    exec .nop s = .next s ∧
    (∀ w : Word, opcodeOf w = 0x00#8 → apply w s = .next (if w = 0 then s else rejectedState 2 s)) ∧
    (s.q.length < s.cfg.qcap → (queuePush (encode .nop) s).q = s.q ++ [0]) ∧
    (s.cfg.qcap ≤ s.q.length → (queuePush (encode .nop) s).q = s.q.tail ++ [0] ∧
      (queuePush (encode .nop) s).cnt.drop = s.cnt.drop + 1)

/-- O13. R77: WRITE_PARAM checks the identifier, then the value; it stores the value clamped to the parameter's range, and
truncated if the parameter is an integer one. No other register changes. -/
def Obligations.WriteParamResult : Prop :=
  ∀ (s : State) (pid : BitVec 16) (val : F32),
    (pidOfBits pid = none → exec (.writeParam pid val) s = .next (rejectedState 4 s)) ∧
    ∀ p : Pid, pidOfBits pid = some p →
      (F32.isFinite val = false → exec (.writeParam pid val) s = .next (rejectedState 5 s)) ∧
      (F32.isFinite val = true → ∃ t, exec (.writeParam pid val) s = .next t ∧ { t with p := s.p } = s ∧
        ∀ q : Pid, readParam t.p q =
          if q = p then
            (if isInteger p = true then F32.ofInt (F32.trunc (F32.clamp val (paramRange p).1 (paramRange p).2))
             else F32.clamp val (paramRange p).1 (paramRange p).2)
          else readParam s.p q)

/-- O14. R78: NOTE_ON starts an Idle voice, retriggers a sounding one from its current levels, and replaces the waiting
note of a fading one. No other voice and no other register changes. -/
def Obligations.NoteOnResult : Prop :=
  ∀ (s : State) (voice note vel : BitVec 8),
    (32 ≤ voice.toNat → exec (.noteOn voice note vel) s = .next (rejectedState 3 s)) ∧
    ∀ v : Fin 32, voice.toNat = v.val →
      (128 ≤ note.toNat ∨ 128 ≤ vel.toNat → exec (.noteOn voice note vel) s = .next (rejectedState 10 s)) ∧
      (note.toNat < 128 → vel.toNat < 128 → ∃ t, exec (.noteOn voice note vel) s = .next t ∧
        { t with voices := s.voices } = s ∧
        (∀ u : Fin 32, u ≠ v → t.voices[u.val] = s.voices[u.val]) ∧
        (0 < s.voices[v.val].fade → t.voices[v.val] =
          { s.voices[v.val] with pend := true, pnote := note.setWidth 7, pvel := vel.setWidth 7 }) ∧
        (s.voices[v.val].fade = 0 → s.voices[v.val].stage = .idle →
          Started (note.setWidth 7) (vel.setWidth 7) s.voices[v.val] t.voices[v.val]) ∧
        (s.voices[v.val].fade = 0 → s.voices[v.val].stage ≠ .idle →
          t.voices[v.val] =
            { s.voices[v.val] with
              note := note.setWidth 7, vel := vel.setWidth 7, stage := .active, env := t.voices[v.val].env } ∧
          ∀ e : Fin 3, t.voices[v.val].env[e.val] =
            ⟨.attack, s.voices[v.val].env[e.val].level, s.voices[v.val].env[e.val].level, 0⟩))

/-- O15. R79: NOTE_OFF releases an Active voice, cancels the waiting note of a fading one, and otherwise changes nothing.
No other voice and no other register changes. -/
def Obligations.NoteOffResult : Prop :=
  ∀ (s : State) (voice : BitVec 8),
    (32 ≤ voice.toNat → exec (.noteOff voice) s = .next (rejectedState 3 s)) ∧
    ∀ v : Fin 32, voice.toNat = v.val → ∃ t, exec (.noteOff voice) s = .next t ∧
      { t with voices := s.voices } = s ∧
      (∀ u : Fin 32, u ≠ v → t.voices[u.val] = s.voices[u.val]) ∧
      (0 < s.voices[v.val].fade → t.voices[v.val] = { s.voices[v.val] with pend := false }) ∧
      (s.voices[v.val].fade = 0 → s.voices[v.val].stage = .active →
        t.voices[v.val] = { s.voices[v.val] with stage := .releasing, env := t.voices[v.val].env } ∧
        ∀ e : Fin 3, t.voices[v.val].env[e.val] =
          if s.voices[v.val].env[e.val].stage = .idle ∨ s.voices[v.val].env[e.val].stage = .release then
            s.voices[v.val].env[e.val]
          else ⟨.release, s.voices[v.val].env[e.val].level, s.voices[v.val].env[e.val].level, 0⟩) ∧
      (s.voices[v.val].fade = 0 → s.voices[v.val].stage ≠ .active → t = s)

/-- O16. R80: STEAL starts the note at once on an Idle voice or without a fade length, otherwise fades the sounding voice
with the note waiting; a fade that runs is not restarted. No other voice and no other register changes. -/
def Obligations.StealResult : Prop :=
  ∀ (s : State) (voice note vel : BitVec 8),
    (32 ≤ voice.toNat → exec (.steal voice note vel) s = .next (rejectedState 3 s)) ∧
    ∀ v : Fin 32, voice.toNat = v.val →
      (128 ≤ note.toNat ∨ 128 ≤ vel.toNat → exec (.steal voice note vel) s = .next (rejectedState 10 s)) ∧
      (note.toNat < 128 → vel.toNat < 128 → ∃ t, exec (.steal voice note vel) s = .next t ∧
        { t with voices := s.voices } = s ∧
        (∀ u : Fin 32, u ≠ v → t.voices[u.val] = s.voices[u.val]) ∧
        (0 < s.voices[v.val].fade → t.voices[v.val] =
          { s.voices[v.val] with pend := true, pnote := note.setWidth 7, pvel := vel.setWidth 7 }) ∧
        (s.voices[v.val].fade = 0 → s.voices[v.val].stage = .idle ∨ s.cfg.fadeLen = 0 →
          Started (note.setWidth 7) (vel.setWidth 7) s.voices[v.val] t.voices[v.val]) ∧
        (s.voices[v.val].fade = 0 → s.voices[v.val].stage ≠ .idle → s.cfg.fadeLen ≠ 0 →
          t.voices[v.val] =
            { s.voices[v.val] with
              fade := s.cfg.fadeLen, pend := true, pnote := note.setWidth 7, pvel := vel.setWidth 7 }))

/-- O17. R81: SLOT_ROUTE checks the slot, the source, the target, that an enabled slot has both, and their scopes; it
writes source, target and enable and keeps the intensity. No other slot and no other register changes. -/
def Obligations.SlotRouteResult : Prop :=
  ∀ (s : State) (slot : BitVec 8) (en : Bool) (src : BitVec 8) (tgt : BitVec 16),
    (s.cfg.nSlots ≤ slot.toNat → exec (.slotRoute slot en src tgt) s = .next (rejectedState 6 s)) ∧
    (slot.toNat < s.cfg.nSlots →
      (src ≠ 0 ∧ sourceOfBits src = none → exec (.slotRoute slot en src tgt) s = .next (rejectedState 7 s)) ∧
      (src = 0 ∨ sourceOfBits src ≠ none →
        (tgt ≠ 0 ∧ (∀ p, pidOfBits tgt = some p → isModulatable p = false) →
          exec (.slotRoute slot en src tgt) s = .next (rejectedState 8 s)) ∧
        (tgt = 0 ∨ (∃ p, pidOfBits tgt = some p ∧ isModulatable p = true) →
          (en = true ∧ (src = 0 ∨ tgt = 0) → exec (.slotRoute slot en src tgt) s = .next (rejectedState 11 s)) ∧
          (en = true ∧ (∃ x p, sourceOfBits src = some x ∧ pidOfBits tgt = some p ∧
              isLocalSource x = true ∧ isGlobal p = true) →
            exec (.slotRoute slot en src tgt) s = .next (rejectedState 9 s)) ∧
          (en = false ∨ (∃ x p, sourceOfBits src = some x ∧ pidOfBits tgt = some p ∧
              ¬(isLocalSource x = true ∧ isGlobal p = true)) →
            ∃ t, exec (.slotRoute slot en src tgt) s = .next t ∧ { t with slots := s.slots } = s ∧
              ∀ j : Nat, t.slots[j]? = (s.slots[j]?).map (fun x =>
                if j = slot.toNat then { x with src := sourceOfBits src, tgt := pidOfBits tgt, en := en } else x)))))

/-- O18. R82: SLOT_INTENSITY checks the slot, then the value, and stores the value clamped to `[-1, 1]`. No other slot and
no other register changes. -/
def Obligations.SlotIntensityResult : Prop :=
  ∀ (s : State) (slot : BitVec 8) (val : F32),
    (s.cfg.nSlots ≤ slot.toNat → exec (.slotIntensity slot val) s = .next (rejectedState 6 s)) ∧
    (slot.toNat < s.cfg.nSlots →
      (F32.isFinite val = false → exec (.slotIntensity slot val) s = .next (rejectedState 5 s)) ∧
      (F32.isFinite val = true → ∃ t, exec (.slotIntensity slot val) s = .next t ∧ { t with slots := s.slots } = s ∧
        ∀ j : Nat, t.slots[j]? = (s.slots[j]?).map (fun x =>
          if j = slot.toNat then { x with intensity := F32.clamp val F32.minusOne F32.one } else x)))

/-- O19. R83: SET_GSRC checks the source, then the value, and stores the value clamped to the source's range: `[0, 1]` for
aftertouch (0x01) and mod wheel (0x03), `[-1, 1]` for the others. No other register changes. -/
def Obligations.SetGsrcResult : Prop :=
  ∀ (s : State) (src : BitVec 8) (val : F32),
    (src.toNat = 0 ∨ 5 < src.toNat → exec (.setGsrc src val) s = .next (rejectedState 7 s)) ∧
    ∀ i : Fin 5, src.toNat = i.val + 1 →
      (F32.isFinite val = false → exec (.setGsrc src val) s = .next (rejectedState 5 s)) ∧
      (F32.isFinite val = true → ∃ t, exec (.setGsrc src val) s = .next t ∧ { t with gsrc := s.gsrc } = s ∧
        ∀ j : Fin 5, t.gsrc[j.val] =
          if j = i then F32.clamp val (if src = 1 ∨ src = 3 then F32.zero else F32.minusOne) F32.one
          else s.gsrc[j.val])

/-- O20. R84: SET_LSRC checks the voice, the source and the value, and stores the value clamped to `[-1, 1]`, on an Idle
voice too. No other register changes. -/
def Obligations.SetLsrcResult : Prop :=
  ∀ (s : State) (voice src : BitVec 8) (val : F32),
    (32 ≤ voice.toNat → exec (.setLsrc voice src val) s = .next (rejectedState 3 s)) ∧
    ∀ v : Fin 32, voice.toNat = v.val →
      (src.toNat < 0x18 ∨ 0x19 < src.toNat → exec (.setLsrc voice src val) s = .next (rejectedState 7 s)) ∧
      ∀ i : Fin 2, src.toNat = 0x18 + i.val →
        (F32.isFinite val = false → exec (.setLsrc voice src val) s = .next (rejectedState 5 s)) ∧
        (F32.isFinite val = true → ∃ t, exec (.setLsrc voice src val) s = .next t ∧ { t with voices := s.voices } = s ∧
          (∀ u : Fin 32, u ≠ v → t.voices[u.val] = s.voices[u.val]) ∧
          t.voices[v.val] = { s.voices[v.val] with lsrc := t.voices[v.val].lsrc } ∧
          ∀ j : Fin 2, t.voices[v.val].lsrc[j.val] =
            if j = i then F32.clamp val F32.minusOne F32.one else s.voices[v.val].lsrc[j.val])

/-- O21. R140: of several faults of one word the first recorded is the opcode, then the RSV bits, then the operand checks
in the command's order; the rejection changes nothing else. -/
def Obligations.RejectionsFollowCheckOrder : Prop :=
  ∀ (w : Word) (s : State),
    (0x09 ≤ (opcodeOf w).toNat → apply w s = .next (rejectedState 1 s)) ∧
    ((opcodeOf w).toNat < 0x09 → decodeWord w = .error .rsvNonzero → apply w s = .next (rejectedState 2 s)) ∧
    ∀ (i : Instr) (c : BitVec 8), decodeWord w = .ok i → firstCode s.cfg.nSlots i = some c →
      apply w s = .next (rejectedState c s)

/-- O22. R71, R75: the commands no check rejects are the well-formed ones, and a command that is performed writes no
counter and no flag. -/
def Obligations.AcceptedCommandsLeaveDiagnostics : Prop :=
  ∀ (i : Instr) (s : State),
    (firstCode s.cfg.nSlots i = none ↔ i.wellFormed s.cfg.nSlots = true) ∧
    (i.wellFormed s.cfg.nSlots = true → ∃ t, exec i s = .next t ∧ t.cnt = s.cnt ∧ t.status = s.status ∧ t.q = s.q)

/-! ## Identifiers and whole-machine rules -/

/-- O23. R20 to R27, R29, R32, R136: every parameter and source has its own identifier and no other value names one; there
are 59 parameters, 41 of them modulatable, 40 with a register in each voice. -/
def Obligations.IdentifierMapsAreExact : Prop :=
  (∀ (w : BitVec 16) (p : Pid), pidOfBits w = some p ↔ pidBits p = w) ∧
  (∀ (w : BitVec 8) (x : Source), sourceOfBits w = some x ↔ sourceBits x = w) ∧
  pidOfBits 0 = none ∧ sourceOfBits 0 = none ∧
  (∀ p : Pid, p ∈ allPids) ∧ allPids.Nodup ∧ allPids.length = 59 ∧
  (allPids.filter isModulatable).length = 41 ∧
  (∀ p : Pid, (effIndex p).isSome = (isModulatable p && !isGlobal p))

/-- O24. R39, R138, R144: nothing clears a status flag or a recorded cause, and only the codes of R138 are recorded. -/
def Obligations.FlagsStickForLife : Prop :=
  ∀ (s t : State), step s = .next t →
    s.status &&& t.status = s.status ∧
    (s.cnt.lastErr ≠ 0 → t.cnt.lastErr ≠ 0) ∧
    (t.cnt.lastErr = s.cnt.lastErr ∨ (1 ≤ t.cnt.lastErr.toNat ∧ t.cnt.lastErr.toNat ≤ 11))

/-- O25. R7, R45: no step changes a parameter of the instance or the wavetable store. -/
def Obligations.InstanceParametersNeverChange : Prop :=
  ∀ (s t : State), step s = .next t → t.cfg = s.cfg

/-- O26. R21, R31, R33: a base parameter register, a slot or a source input changes only in a clock tick, by a queued
command of the one kind that writes it, naming it. -/
def Obligations.OnlyNamedCommandsWrite : Prop :=
  ∀ (s t : State), step s = .next t →
    (∀ pid : Pid, readParam t.p pid ≠ readParam s.p pid →
      ticks s = true ∧ ∃ w ∈ s.q, ∃ bits val, decodeWord w = .ok (.writeParam bits val) ∧ pidOfBits bits = some pid) ∧
    (∀ j : Nat, t.slots[j]? ≠ s.slots[j]? →
      ticks s = true ∧ ∃ w ∈ s.q,
        (∃ slot en src tgt, decodeWord w = .ok (.slotRoute slot en src tgt) ∧ slot.toNat = j) ∨
        (∃ slot val, decodeWord w = .ok (.slotIntensity slot val) ∧ slot.toNat = j)) ∧
    (∀ i : Fin 5, t.gsrc[i.val] ≠ s.gsrc[i.val] →
      ticks s = true ∧ ∃ w ∈ s.q, ∃ src val, decodeWord w = .ok (.setGsrc src val) ∧ src.toNat = i.val + 1) ∧
    (∀ (v : Fin 32) (i : Fin 2), t.voices[v.val].lsrc[i.val] ≠ s.voices[v.val].lsrc[i.val] →
      ticks s = true ∧ ∃ w ∈ s.q, ∃ voice src val,
        decodeWord w = .ok (.setLsrc voice src val) ∧ voice.toNat = v.val ∧ src.toNat = 0x18 + i.val)

/-- O27. R38, R39, R86, R147: the block counter counts the clock ticks, modulo `2^64`, and nothing else; and the rendering
after the drain leaves the drop, rejection and cause registers, STATUS bits 0 and 1, the patch, the slots, the source inputs
and the emptied queue as the drain left them. (`draw` is the model's own counter, log entry 5.) -/
def Obligations.BlockCounterCountsTicks : Prop :=
  (∀ (s t : State), step s = .next t → t.cnt.block = if ticks s = true then s.cnt.block + 1 else s.cnt.block) ∧
  ∀ (s u t : State), ticks s = true → queueDrain (atTick s) = .next u → step s = .next t →
    t = { u with
      voices := t.voices, effVolume := t.effVolume, out := t.out, snap := t.snap, status := t.status, draw := t.draw
      cnt := { u.cnt with block := t.cnt.block, nan := t.cnt.nan, fallback := t.cnt.fallback } } ∧
    t.status &&& 0b0011#4 = u.status &&& 0b0011#4 ∧ t.q = [] ∧
    ∀ (v : Fin 32) (i : Fin 2), t.voices[v.val].lsrc[i.val] = u.voices[v.val].lsrc[i.val]

/-! ## Invariants that every step keeps -/

/-- O28. R40, R41, R100: the numbers of slots, queued words and samples keep their bounds. -/
def Obligations.ShapeStays : Prop := ∀ (s t : State), ShapeOk s → step s = .next t → ShapeOk t

/-- O29. R21, R22, R28: the base registers stay in their ranges, the integer ones integral. -/
def Obligations.PatchStaysInRange : Prop := ∀ (s t : State), PatchOk s → step s = .next t → PatchOk t

/-- O30. R31: the slots stay legal, the enabled ones complete and of compatible scope. -/
def Obligations.SlotsStayCompatible : Prop := ∀ (s t : State), SlotsOk s → step s = .next t → SlotsOk t

/-- O31. R32, R33: the source inputs stay in their ranges. -/
def Obligations.SourceInputsStayInRange : Prop := ∀ (s t : State), SourcesOk s → step s = .next t → SourcesOk t

/-- O32. R124: the envelope levels and starts stay in `[0, 1]`. -/
def Obligations.EnvelopeLevelsStayInUnitRange : Prop :=
  ∀ (s t : State), EnvelopesOk s → step s = .next t → EnvelopesOk t

/-- O33. R35, R104: every oscillator phase stays in `[0, 1)`. -/
def Obligations.PhasesStayInUnitInterval : Prop := ∀ (s t : State), PhasesOk s → step s = .next t → PhasesOk t

/-- O34. R34, R97: an Idle voice does not fade, and no fade is longer than FADE. -/
def Obligations.IdleVoicesDoNotFade : Prop := ∀ (s t : State), FadesOk s → step s = .next t → FadesOk t

/-- O35. R36, R113: a valid coefficient cache stays the function of its key. A NaN coefficient's payload is open (log entry
4), so the equality is up to NaN payloads. -/
def Obligations.FilterCachesMatchKeys : Prop := ∀ (s t : State), CachesOk s → step s = .next t → CachesOk t

/-- O36. The invariants of O28 to O35 hold after reset, whatever the admissible parameters; and the instance of
`State.reset` is admissible, by the model's choice of it (log entries 1 and 2). -/
def Obligations.ResetMeetsInvariants : Prop :=
  State.reset.cfg.wf = true ∧ ∀ c : Params, c.wf = true →
    ShapeOk (State.resetFor c) ∧ PatchOk (State.resetFor c) ∧ SlotsOk (State.resetFor c) ∧
    SourcesOk (State.resetFor c) ∧ EnvelopesOk (State.resetFor c) ∧ PhasesOk (State.resetFor c) ∧
    FadesOk (State.resetFor c) ∧ CachesOk (State.resetFor c)

/-- O37. R154: the reset value of every register. The contents of an invalid coefficient cache are unused and not
stated. (That the instance is admissible, log entries 1 and 2, is O36's.) -/
def Obligations.ResetValues : Prop :=
  (∀ k : Fin 3,
    readParam State.reset.p (.osc k .table) = F32.zero ∧
    readParam State.reset.p (.osc k .level) = (if k = 0 then F32.one else F32.zero) ∧
    readParam State.reset.p (.osc k .tune) = F32.zero ∧ readParam State.reset.p (.osc k .fine) = F32.zero ∧
    readParam State.reset.p (.osc k .wavePos) = F32.zero ∧ readParam State.reset.p (.osc k .unison) = F32.one ∧
    readParam State.reset.p (.osc k .spread) = F32.zero ∧ readParam State.reset.p (.osc k .sync) = F32.zero ∧
    readParam State.reset.p (.osc k .syncLeader) = F32.zero ∧ readParam State.reset.p (.osc k .bypass) = F32.zero) ∧
  (∀ f : Fin 2,
    readParam State.reset.p (.flt f .mode) = F32.zero ∧ readParam State.reset.p (.flt f .cutoff) = 0x469C4000#32 ∧
    readParam State.reset.p (.flt f .resonance) = F32.zero) ∧
  (∀ e : Fin 3,
    readParam State.reset.p (.env e .attack) = F32.zero ∧ readParam State.reset.p (.env e .decay) = F32.zero ∧
    readParam State.reset.p (.env e .sustain) = F32.one ∧ readParam State.reset.p (.env e .release) = F32.zero ∧
    readParam State.reset.p (.env e .attackSlope) = F32.one ∧ readParam State.reset.p (.env e .decaySlope) = F32.one ∧
    readParam State.reset.p (.env e .releaseSlope) = F32.one) ∧
  readParam State.reset.p (.glb .routing) = F32.ofNat State.reset.cfg.defaultRouting.val ∧
  readParam State.reset.p (.glb .volume) = F32.one ∧
  State.reset.slots = List.replicate State.reset.cfg.nSlots ⟨none, none, false, F32.zero⟩ ∧
  (∀ i : Fin 5, State.reset.gsrc[i.val] = F32.zero) ∧
  (∀ v : Fin 32,
    State.reset.voices[v.val].stage = .idle ∧ State.reset.voices[v.val].note = 0 ∧ State.reset.voices[v.val].vel = 0 ∧
    State.reset.voices[v.val].fade = 0 ∧ State.reset.voices[v.val].pend = false ∧
    State.reset.voices[v.val].pnote = 0 ∧ State.reset.voices[v.val].pvel = 0 ∧
    (∀ (k : Fin 3) (i : Fin 7), State.reset.voices[v.val].osc[k.val].ph[i.val] =
      F32.div (F32.ofNat i.val) (0x40E00000#32)) ∧
    (∀ k : Fin 3, State.reset.voices[v.val].osc[k.val].last = F32.zero) ∧
    (∀ f : Fin 2, State.reset.voices[v.val].flt[f.val].ic1 = F32.zero ∧
      State.reset.voices[v.val].flt[f.val].ic2 = F32.zero ∧ State.reset.voices[v.val].flt[f.val].cvalid = false) ∧
    (∀ e : Fin 3, State.reset.voices[v.val].env[e.val] = ⟨.idle, F32.zero, F32.zero, 0⟩) ∧
    (∀ (pid : Pid) (i : Fin 40), effIndex pid = some i →
      State.reset.voices[v.val].eff[i.val] = readParam State.reset.p pid) ∧
    (∀ i : Fin 2, State.reset.voices[v.val].lsrc[i.val] = F32.zero) ∧
    State.reset.out[v.val] = List.replicate State.reset.cfg.block F32.zero) ∧
  State.reset.effVolume = F32.one ∧
  State.reset.cnt = ⟨0, 0, 0, 0, 0, 0⟩ ∧ State.reset.status = 0 ∧ State.reset.q = [] ∧
  State.reset.snap.cnt = State.reset.cnt ∧ State.reset.snap.status = State.reset.status ∧
  (∀ v : Fin 32, State.reset.snap.stages[v.val] = State.reset.voices[v.val].stage ∧
    ∀ e : Fin 3, State.reset.snap.levels[v.val][e.val] = State.reset.voices[v.val].env[e.val].level) ∧
  State.reset.snap.active = 0 ∧ State.reset.snap.volume = State.reset.effVolume

/-! ## The block step -/

/-- O38. R86, R90: with no command pending and every voice Idle (and its filter states finite, as the guard leaves them)
a block step writes `+0.0` to every output, leaves all unit state unchanged and counts one block. -/
def Obligations.IdleBlockIsSilent : Prop :=
  ∀ (s t : State), ticks s = true → s.q = [] →
    (∀ v : Fin 32, s.voices[v.val].stage = .idle ∧ ∀ f : Fin 2,
      F32.isFinite s.voices[v.val].flt[f.val].ic1 = true ∧ F32.isFinite s.voices[v.val].flt[f.val].ic2 = true) →
    step s = .next t →
    t.cnt.block = s.cnt.block + 1 ∧
    ∀ v : Fin 32, t.out[v.val] = List.replicate s.cfg.block F32.zero ∧
      { t.voices[v.val] with eff := s.voices[v.val].eff } = s.voices[v.val]

/-- O39. R87, R88, R113, R130: each voice's buffer and its state after a block are what the voice gives when it is rendered
alone, sample by sample, from its state after the resolution and the preparation; then its filters are guarded. The
resolution and the preparation change nothing of the voice but its effective values and its coefficient caches, and of an
Idle voice not the caches. -/
def Obligations.VoicesRenderAlone : Prop :=
  ∀ (s u t : State), ticks s = true → queueDrain (atTick s) = .next u → step s = .next t →
    ∀ v : Fin 32,
      t.out[v.val] = (renderVoice u.cfg u.p u.draw v.val u.cfg.block 0
        (blockPrepare (resolveMatrix u)).voices[v.val]).2 ∧
      t.voices[v.val] =
        { (renderVoice u.cfg u.p u.draw v.val u.cfg.block 0 (blockPrepare (resolveMatrix u)).voices[v.val]).1 with
          flt := vmap nanGuard
            (renderVoice u.cfg u.p u.draw v.val u.cfg.block 0 (blockPrepare (resolveMatrix u)).voices[v.val]).1.flt } ∧
      (blockPrepare (resolveMatrix u)).voices[v.val] =
        { u.voices[v.val] with
          eff := (blockPrepare (resolveMatrix u)).voices[v.val].eff
          flt := (blockPrepare (resolveMatrix u)).voices[v.val].flt } ∧
      (∀ f : Fin 2,
        (blockPrepare (resolveMatrix u)).voices[v.val].flt[f.val].ic1 = u.voices[v.val].flt[f.val].ic1 ∧
        (blockPrepare (resolveMatrix u)).voices[v.val].flt[f.val].ic2 = u.voices[v.val].flt[f.val].ic2) ∧
      (u.voices[v.val].stage = .idle → (blockPrepare (resolveMatrix u)).voices[v.val].flt = u.voices[v.val].flt)

/-- O40. R88, R149: a block step of two machines with the same parameters, patch, slots, shared inputs and queue gives
voice `v` the same output and the same state, whatever the other voices are. (The NaN payloads drawn are the same if the
draw counters are: log entries 4 and 5.) -/
def Obligations.VoicesDoNotInterfere : Prop :=
  ∀ (s₁ s₂ t₁ t₂ : State) (v : Fin 32), ticks s₁ = true → ticks s₂ = true →
    s₁.cfg = s₂.cfg → s₁.p = s₂.p → s₁.slots = s₂.slots → s₁.gsrc = s₂.gsrc → s₁.q = s₂.q → s₁.draw = s₂.draw →
    s₁.voices[v.val] = s₂.voices[v.val] → step s₁ = .next t₁ → step s₂ = .next t₂ →
    t₁.out[v.val] = t₂.out[v.val] ∧ t₁.voices[v.val] = t₂.voices[v.val] ∧ t₁.effVolume = t₂.effVolume

/-- O41. R42, R91: a block step ends with a snapshot of what it leaves; no other move changes the snapshot. -/
def Obligations.SnapshotCopiesState : Prop :=
  ∀ (s t : State), step s = .next t →
    (ticks s = false → t.snap = s.snap) ∧
    (ticks s = true →
      t.snap.cnt = t.cnt ∧ t.snap.status = t.status ∧ t.snap.volume = t.effVolume ∧
      (∀ v : Fin 32, t.snap.stages[v.val] = t.voices[v.val].stage ∧
        ∀ e : Fin 3, t.snap.levels[v.val][e.val] = t.voices[v.val].env[e.val].level) ∧
      t.snap.active = ((List.finRange 32).filter (fun v => decide (t.voices[v.val].stage ≠ .idle))).length)

/-- O42. R106: a block counts one fallback for each oscillator whose TABLE names no loaded table, and sets the flag if
there is one. -/
def Obligations.FallbacksAreCounted : Prop :=
  ∀ (s t : State), ticks s = true → step s = .next t →
    t.cnt.fallback = s.cnt.fallback + BitVec.ofNat 32
      ((List.finRange 3).filter (fun k => decide (s.cfg.nTables ≤ intParam t.p (.osc k .table)))).length ∧
    ((∃ k : Fin 3, s.cfg.nTables ≤ intParam t.p (.osc k .table)) → t.status &&& 0b1000#4 = 0b1000#4) ∧
    ((∀ k : Fin 3, intParam t.p (.osc k .table) < s.cfg.nTables) →
      t.status &&& 0b1000#4 = s.status &&& 0b1000#4)

/-- O43. R117: at the end of a block a filter whose state, as the block's samples left it, is not finite has both
integrators reset to `+0.0` and its coefficients kept, and any other filter is left as it is, so that every filter state is
finite; the block counts one reset for each filter it resets, and sets STATUS bit 2 if there is one, else leaves it. -/
def Obligations.GuardResetsBrokenFilters : Prop :=
  ∀ (s u t : State), ticks s = true → queueDrain (atTick s) = .next u → step s = .next t →
    (∀ (v : Fin 32) (f : Fin 2),
      F32.isFinite t.voices[v.val].flt[f.val].ic1 = true ∧ F32.isFinite t.voices[v.val].flt[f.val].ic2 = true) ∧
    (∀ (v : Fin 32) (f : Fin 2), t.voices[v.val].flt[f.val] =
      if F32.isFinite (unguarded u v f).ic1 = true ∧ F32.isFinite (unguarded u v f).ic2 = true then unguarded u v f
      else { unguarded u v f with ic1 := F32.zero, ic2 := F32.zero }) ∧
    t.cnt.nan = s.cnt.nan + BitVec.ofNat 32 ((List.finRange 32).map (fun v => ((List.finRange 2).filter (fun f =>
      !(F32.isFinite (unguarded u v f).ic1 && F32.isFinite (unguarded u v f).ic2))).length)).sum ∧
    ((∃ (v : Fin 32) (f : Fin 2),
      ¬(F32.isFinite (unguarded u v f).ic1 = true ∧ F32.isFinite (unguarded u v f).ic2 = true)) →
      t.status &&& 0b0100#4 = 0b0100#4) ∧
    ((∀ (v : Fin 32) (f : Fin 2),
      F32.isFinite (unguarded u v f).ic1 = true ∧ F32.isFinite (unguarded u v f).ic2 = true) →
      t.status &&& 0b0100#4 = s.status &&& 0b0100#4)

/-! ## The modulation matrix -/

/-- O44. R130, R131: after a block the volume, and every effective value of a voice that was not Idle when the matrix ran,
is the base value plus the contributions of the enabled slots in ascending order, clamped once. -/
def Obligations.EffectiveValuesAfterBlock : Prop :=
  ∀ (s u t : State), ticks s = true → queueDrain (atTick s) = .next u → step s = .next t →
    t.effVolume = F32.clamp (F32.add (readParam u.p (.glb .volume))
      (modSum (globalSource u.gsrc) (.glb .volume) u.slots)) F32.zero F32.one ∧
    ∀ (v : Fin 32) (pid : Pid) (i : Fin 40), effIndex pid = some i → u.voices[v.val].stage ≠ .idle →
      t.voices[v.val].eff[i.val] = F32.clamp (F32.add (readParam u.p pid)
        (modSum (sourceValue u.gsrc u.voices[v.val]) pid u.slots)) (paramRange pid).1 (paramRange pid).2

/-- O45. R131, R133: with a legal patch, the effective values of a voice that is Idle when the matrix runs are its base
values, as values (a base `-0.0` gives `+0.0`). -/
def Obligations.IdleVoicesKeepBaseValues : Prop :=
  ∀ (s u t : State), PatchOk s → ticks s = true → queueDrain (atTick s) = .next u → step s = .next t →
    ∀ (v : Fin 32) (pid : Pid) (i : Fin 40), effIndex pid = some i → u.voices[v.val].stage = .idle →
      F32.eqv t.voices[v.val].eff[i.val] (readParam u.p pid) = true

/-- O46. R132: what a disabled slot holds changes nothing that a block step gives, except the slot itself. -/
def Obligations.DisabledSlotsContributeNothing : Prop :=
  ∀ (s : State) (slots : List Slot) (t₁ t₂ : State), s.q = [] → ticks s = true →
    List.Forall₂ (fun x y : Slot => x = y ∨ (x.en = false ∧ y.en = false)) s.slots slots →
    step s = .next t₁ → step { s with slots := slots } = .next t₂ → { t₂ with slots := t₁.slots } = t₁

/-! ## Voices and envelopes -/

/-- O47. R79, R95 to R97, R160: a fading voice keeps its old note and stage for the rest of the fade, whose last sample has
gain `0 / FADE`; then a waiting note starts, and without one (a NOTE_OFF has cancelled it) the voice is Idle with its units
reset. -/
def Obligations.StolenVoiceStartsAfterFade : Prop :=
  ∀ (c : Params) (p : Vector F32 59) (d v n f : Nat) (vc : Voice),
    vc.stage ≠ .idle → vc.fade = f + 1 →
    (vc.pend = true → Started vc.pnote vc.pvel vc (renderVoice c p d v (f + 1) n vc).1) ∧
    (vc.pend = false → Silenced vc (renderVoice c p d v (f + 1) n vc).1) ∧
    ∀ k : Nat, k ≤ f →
      (renderVoice c p d v k n vc).1.fade = f + 1 - k ∧ (renderVoice c p d v k n vc).1.note = vc.note ∧
      (renderVoice c p d v k n vc).1.stage = vc.stage ∧
      fadeGain c (renderVoice c p d v k n vc).1 = F32.div (F32.ofNat (f - k)) (F32.ofNat c.fadeLen)

/-- O48. R97: a Releasing voice that does not fade goes Idle at the end of a sample exactly if every relevant envelope is
Idle then; an Active one never does. -/
def Obligations.ReleaseEndsWithEnvelopes : Prop :=
  ∀ (c : Params) (p : Vector F32 59) (d v n : Nat) (vc : Voice), vc.fade = 0 →
    (vc.stage = .active → (voiceSample c p d v n vc).1.stage = .active) ∧
    (vc.stage = .releasing → (voiceSample c p d v n vc).1.stage =
      if (∀ e ∈ c.relevantEnv, (voiceSample c p d v n vc).1.env[e.val].stage = .idle) then .idle else .releasing)

/-- O49. R126: the transition table of an envelope, every state by every event. -/
def Obligations.EnvelopeTransitions : Prop :=
  ∀ (c : Params) (q : EnvParams) (e : Env),
    envNoteOn e = ⟨.attack, e.level, e.level, 0⟩ ∧
    (e.stage = .idle ∨ e.stage = .release → envNoteOff e = e) ∧
    (e.stage = .attack ∨ e.stage = .decay ∨ e.stage = .sustain → envNoteOff e = ⟨.release, e.level, e.level, 0⟩) ∧
    (e.stage = .idle → envStep c q e = e) ∧
    (e.stage = .sustain → envStep c q e = { e with level := q.sustain }) ∧
    (e.stage = .attack →
      (segLen c q.attack = 0 → envStep c q e = envStep c q ⟨.decay, F32.one, F32.one, 0⟩) ∧
      (0 < segLen c q.attack → segLen c q.attack ≤ e.t + 1 → envStep c q e = ⟨.decay, F32.one, F32.one, 0⟩) ∧
      (e.t + 1 < segLen c q.attack → envStep c q e = ⟨.attack,
        F32.clamp (F32.add e.start (F32.mul (F32.sub F32.one e.start) (Math.powf c.math
          (F32.div (F32.ofNat (e.t + 1)) (F32.ofNat (segLen c q.attack))) q.attackSlope))) F32.zero F32.one,
        e.start, e.t + 1⟩)) ∧
    (e.stage = .decay →
      (segLen c q.decay = 0 ∨ segLen c q.decay ≤ e.t + 1 →
        envStep c q e = ⟨.sustain, q.sustain, q.sustain, 0⟩) ∧
      (e.t + 1 < segLen c q.decay → envStep c q e = ⟨.decay,
        F32.clamp (F32.add q.sustain (F32.mul (F32.sub e.start q.sustain) (Math.powf c.math
          (F32.sub F32.one (F32.div (F32.ofNat (e.t + 1)) (F32.ofNat (segLen c q.decay)))) q.decaySlope)))
          F32.zero F32.one,
        e.start, e.t + 1⟩)) ∧
    (e.stage = .release →
      (segLen c q.release = 0 ∨ segLen c q.release ≤ e.t + 1 →
        envStep c q e = ⟨.idle, F32.zero, F32.zero, 0⟩) ∧
      (e.t + 1 < segLen c q.release → envStep c q e = ⟨.release,
        F32.clamp (F32.add F32.zero (F32.mul (F32.sub e.start F32.zero) (Math.powf c.math
          (F32.sub F32.one (F32.div (F32.ofNat (e.t + 1)) (F32.ofNat (segLen c q.release)))) q.releaseSlope)))
          F32.zero F32.one,
        e.start, e.t + 1⟩))

/-- O50. R127: with ATTACK 10 ms, slope 1 and FS 44100, from any level in `[0, 1]` the attack does not fall from sample to
sample, stays in Attack for 440 samples and ends at exactly `1.0` with the 441st. -/
def Obligations.AttackReachesCeiling : Prop :=
  ∀ (c : Params) (q : EnvParams) (e : Env), c.fs = 44100 → q.attack = 0x3C23D70A#32 → q.attackSlope = F32.one →
    e.stage = .attack → e.t = 0 → e.start = e.level → inRange e.level F32.zero F32.one = true →
    envSteps c q 441 e = ⟨.decay, F32.one, F32.one, 0⟩ ∧
    ∀ t : Nat, t ≤ 440 → (envSteps c q t e).stage = .attack ∧
      F32.le (envSteps c q t e).level (envSteps c q (t + 1) e).level = true

/-! ## Oscillators and filters -/

/-- O51. R103, R104: the increment lies in `[0, 0.5]`, whatever the pitch; a phase in `[0, 1)` advanced by it lies in
`[0, 1)`, and a wrap subtracts exactly 1. -/
def Obligations.AdvanceStaysInUnitInterval : Prop :=
  ∀ (c : Params) (semis ph : F32), inUnit ph = true →
    inRange (phaseInc c semis) F32.zero F32.half = true ∧
    inUnit (advance ph (phaseInc c semis)).1 = true ∧
    valueOf (advance ph (phaseInc c semis)).1 =
      valueOf (F32.add ph (phaseInc c semis)) - (if (advance ph (phaseInc c semis)).2 = true then 1 else 0)

/-- O52. R105, R110: oscillator 0 never follows; oscillator 1 or 2 with SYNC 1 and a lower leader has its sounding
instances reset to phase 0 in the very sample in which the leader wraps; otherwise they advance. The wrap event of a leader
is the wrap of its instance 0 or, of oscillator 1, its own reset by sync. -/
def Obligations.SyncResetsFollower : Prop :=
  ∀ (c : Params) (p : Vector F32 59) (d v n : Nat) (vc : Voice) (i : Fin 7),
    ((stepOscs c p d v n vc).1.osc.ph[i.val] =
      if i.val < intParam p (.osc 0 .unison) then
        (advance vc.osc[0].ph[i.val] (oscInc c (oscParamsOf p vc 0) vc.note i.val)).1
      else vc.osc[0].ph[i.val]) ∧
    ((stepOscs c p d v n vc).2.1.osc.ph[i.val] =
      if i.val < intParam p (.osc 1 .unison) then
        (if intParam p (.osc 1 .sync) = 1 ∧ intParam p (.osc 1 .syncLeader) = 0 ∧
            (stepOscs c p d v n vc).1.wrap = true then F32.zero
         else (advance vc.osc[1].ph[i.val] (oscInc c (oscParamsOf p vc 1) vc.note i.val)).1)
      else vc.osc[1].ph[i.val]) ∧
    ((stepOscs c p d v n vc).2.2.osc.ph[i.val] =
      if i.val < intParam p (.osc 2 .unison) then
        (if intParam p (.osc 2 .sync) = 1 ∧
            ((intParam p (.osc 2 .syncLeader) = 0 ∧ (stepOscs c p d v n vc).1.wrap = true) ∨
             (intParam p (.osc 2 .syncLeader) = 1 ∧ (stepOscs c p d v n vc).2.1.wrap = true)) then F32.zero
         else (advance vc.osc[2].ph[i.val] (oscInc c (oscParamsOf p vc 2) vc.note i.val)).1)
      else vc.osc[2].ph[i.val]) ∧
    (0 < intParam p (.osc 0 .unison) → (stepOscs c p d v n vc).1.wrap =
      (advance vc.osc[0].ph[0] (oscInc c (oscParamsOf p vc 0) vc.note 0)).2) ∧
    (0 < intParam p (.osc 1 .unison) → ((stepOscs c p d v n vc).2.1.wrap = true ↔
      (advance vc.osc[1].ph[0] (oscInc c (oscParamsOf p vc 1) vc.note 0)).2 = true ∨
      (intParam p (.osc 1 .sync) = 1 ∧ intParam p (.osc 1 .syncLeader) = 0 ∧
        (stepOscs c p d v n vc).1.wrap = true)))

/-- O53. R113: after a block the coefficient caches of a voice that was not Idle when the matrix ran are valid and keyed by
its mode and its effective cutoff and resonance, compared as values. -/
def Obligations.FilterKeysFollowParameters : Prop :=
  ∀ (s u t : State), ticks s = true → queueDrain (atTick s) = .next u → step s = .next t →
    ∀ (v : Fin 32) (f : Fin 2), u.voices[v.val].stage ≠ .idle →
      t.voices[v.val].flt[f.val].cvalid = true ∧
      t.voices[v.val].flt[f.val].key.mode = intParam u.p (.flt f .mode) ∧
      F32.eqv t.voices[v.val].flt[f.val].key.cutoff (readEff u.p t.voices[v.val] (.flt f .cutoff)) = true ∧
      F32.eqv t.voices[v.val].flt[f.val].key.res (readEff u.p t.voices[v.val] (.flt f .resonance)) = true

/-! ## Numbers -/

/-- O54. R11: `clamp` with its NaN arm; its result lies in the range. -/
def Obligations.ClampStaysInRange : Prop :=
  ∀ x lo hi : F32, F32.le lo hi = true →
    (F32.isNaN x = true → F32.clamp x lo hi = lo) ∧ (F32.lt x lo = true → F32.clamp x lo hi = lo) ∧
    (F32.lt hi x = true → F32.clamp x lo hi = hi) ∧
    (F32.isNaN x = false → F32.lt x lo = false → F32.lt hi x = false → F32.clamp x lo hi = x) ∧
    inRange (F32.clamp x lo hi) lo hi = true

/-- O55. R10: the laws of the configuration functions, the first and the third for both zeros. The monotone law is stated of
the other admissible functions; of the reference ones it is not (log entry 3). -/
def Obligations.MathLaws : Prop :=
  (∀ (m : MathChoice) (x : F32), F32.mag x = 0 → Math.exp2f m x = F32.one) ∧
  (∀ (m : MathChoice) (x : F32), Math.powf m x F32.one = x) ∧
  (∀ (m : MathChoice) (y : F32), F32.lt F32.zero y = true →
    Math.powf m F32.zero y = F32.zero ∧ Math.powf m F32.one y = F32.one ∧
    ∀ x : F32, F32.mag x = 0 → F32.mag (Math.powf m x y) = 0) ∧
  Math.PowMonotone (Math.powf .other)

/-- O56. R9: the sum of two finite values is the exact sum rounded to nearest, ties to even. R9 does not say the sign of an
exact zero sum, nor what a sum past the largest finite value is: that the one is `-0.0` of two negative zeros and `+0.0`
otherwise, and the other an infinity, is the model's choice (log entry 24). -/
def Obligations.AddRounds : Prop :=
  ∀ a b : F32, F32.isFinite a = true → F32.isFinite b = true →
    RoundsTo (valueOf a + valueOf b) (F32.add a b) ∧
    (valueOf a + valueOf b = 0 → F32.sign (F32.add a b) = (F32.sign a && F32.sign b))

/-- O57. R9: the product of two finite values is the exact product rounded to nearest, ties to even. The infinity past the
largest finite value, and the sign of a zero product, which is the product of the signs like any other's, are the model's
choice (log entry 24). -/
def Obligations.MulRounds : Prop :=
  ∀ a b : F32, F32.isFinite a = true → F32.isFinite b = true →
    RoundsTo (valueOf a * valueOf b) (F32.mul a b) ∧ F32.sign (F32.mul a b) = (F32.sign a != F32.sign b)

/-- O58. R9: the quotient of a finite value by a finite value that is not zero is the exact quotient rounded to nearest,
ties to even. The infinity past the largest finite value, and the sign of a zero quotient, which is the quotient of the
signs like any other's, are the model's choice (log entry 24). -/
def Obligations.DivRounds : Prop :=
  ∀ a b : F32, F32.isFinite a = true → F32.isFinite b = true → valueOf b ≠ 0 →
    RoundsTo (valueOf a / valueOf b) (F32.div a b) ∧ F32.sign (F32.div a b) = (F32.sign a != F32.sign b)

/-- O59. R9: the square root of a finite value that is not negative is the exact root rounded to nearest. -/
def Obligations.SqrtRounds : Prop :=
  ∀ x : F32, F32.isFinite x = true → 0 ≤ valueOf x → RootRoundsTo x (F32.sqrt x)

/-- O60. R89, R90, R92, R93, R96, R106 to R110, R114, R121: one sample of a voice, written out: an Idle voice gives `+0.0`
and does not step; of a sounding one, the oscillators' outputs from their tables, the mix, the routing through the two
filters with their new integrators, the amplitude, and the phases and envelopes stepped (at the last sample of a fade O47
says what becomes of the units); note, velocity, waiting note and every other field of the voice but its stage, or during a
fade its counter, are left. A NaN in `last` has any payload (log entry 4).
And the gain `1.0` changes nothing: with envelope 0 at level 1 and no fade the amplitude stage passes the routed signal
bit for bit (R9, R93); for an infinite signal, and for the sign of a zero, that rests on log entry 24, the model's choice. -/
def Obligations.FullLevelKeepsSignal : Prop :=
  (∀ (c : Params) (p : Vector F32 59) (d v n : Nat) (vc : Voice),
    (vc.stage = .idle → voiceSample c p d v n vc = (vc, F32.zero)) ∧
    (vc.stage ≠ .idle → Sampled c p d v n vc (voiceSample c p d v n vc).1 (voiceSample c p d v n vc).2)) ∧
  ∀ (c : Params) (vc : Voice) (x : F32), vc.fade = 0 → F32.isNaN x = false → amplitude c vc x F32.one = x
end

