-- ==== Sys2Proof/Laws/Vec.lean ====
section
/-! SUPPORT. What the maps of Machine/Vec.lean do, element by element. -/

namespace Sys2Proof.Machine

theorem getElem?_enumMap {α β : Type} (f : Nat → α → β) (i j : Nat) (xs : List α) :
    (enumMap f i xs)[j]? = (xs[j]?).map (f (i + j)) := by
  induction xs generalizing i j with
  | nil => simp [enumMap]
  | cons x xs ih =>
    cases j with
    | zero => simp [enumMap]
    | succ j => simp only [enumMap, List.getElem?_cons_succ, ih]; congr 2; omega

theorem getElem_enumMap {α β : Type} (f : Nat → α → β) (i j : Nat) (xs : List α) (h : j < (enumMap f i xs).length) :
    (enumMap f i xs)[j] = f (i + j) (xs[j]'(by simpa [length_enumMap] using h)) := by
  have h' : j < xs.length := by simpa [length_enumMap] using h
  have := getElem?_enumMap f i j xs
  rw [List.getElem?_eq_getElem h, List.getElem?_eq_getElem h'] at this
  simpa using this

@[simp] theorem getElem_vmapIdx {α β : Type} {n : Nat} (f : Nat → α → β) (xs : Vector α n) (i : Nat) (h : i < n) :
    (vmapIdx f xs)[i] = f i xs[i] := by
  simp [vmapIdx, getElem_enumMap]

@[simp] theorem getElem_vmap {α β : Type} {n : Nat} (f : α → β) (xs : Vector α n) (i : Nat) (h : i < n) :
    (vmap f xs)[i] = f xs[i] := by
  simp [vmap]

@[simp] theorem getElem_vconst {α : Type} {n : Nat} (x : α) (i : Nat) (h : i < n) : (vconst n x)[i] = x := by
  simp [vconst]

@[simp] theorem getElem_vzipIdx {α β γ : Type} {n : Nat} (f : Nat → α → β → γ) (xs : Vector α n) (ys : Vector β n)
    (i : Nat) (h : i < n) : (vzipIdx f xs ys)[i] = f i xs[i] ys[i] := by
  simp [vzipIdx, getElem_enumMap]

end Sys2Proof.Machine
end

