-- ==== Sys2Proof/Laws/State.lean ====
section
/-! SUPPORT. For every operation on the state, what each field is afterwards (one lemma a field), so that no proof unfolds a
record update. -/

namespace Sys2Proof.Machine

@[simp] theorem setStatus_cfg (bit : BitVec 4) (s : State) : (setStatus bit s).cfg = s.cfg := rfl
@[simp] theorem setStatus_p (bit : BitVec 4) (s : State) : (setStatus bit s).p = s.p := rfl
@[simp] theorem setStatus_slots (bit : BitVec 4) (s : State) : (setStatus bit s).slots = s.slots := rfl
@[simp] theorem setStatus_gsrc (bit : BitVec 4) (s : State) : (setStatus bit s).gsrc = s.gsrc := rfl
@[simp] theorem setStatus_voices (bit : BitVec 4) (s : State) : (setStatus bit s).voices = s.voices := rfl
@[simp] theorem setStatus_effVolume (bit : BitVec 4) (s : State) : (setStatus bit s).effVolume = s.effVolume := rfl
@[simp] theorem setStatus_cnt (bit : BitVec 4) (s : State) : (setStatus bit s).cnt = s.cnt := rfl
@[simp] theorem setStatus_status (bit : BitVec 4) (s : State) : (setStatus bit s).status = s.status ||| bit := rfl
@[simp] theorem setStatus_q (bit : BitVec 4) (s : State) : (setStatus bit s).q = s.q := rfl
@[simp] theorem setStatus_out (bit : BitVec 4) (s : State) : (setStatus bit s).out = s.out := rfl
@[simp] theorem setStatus_snap (bit : BitVec 4) (s : State) : (setStatus bit s).snap = s.snap := rfl
@[simp] theorem setStatus_host (bit : BitVec 4) (s : State) : (setStatus bit s).host = s.host := rfl
@[simp] theorem setStatus_draw (bit : BitVec 4) (s : State) : (setStatus bit s).draw = s.draw := rfl

@[simp] theorem writeParamReg_cfg (pid : Pid) (x : F32) (s : State) : (writeParamReg pid x s).cfg = s.cfg := rfl
@[simp] theorem writeParamReg_p (pid : Pid) (x : F32) (s : State) : (writeParamReg pid x s).p = s.p.set (pidIndex pid).val x := rfl
@[simp] theorem writeParamReg_slots (pid : Pid) (x : F32) (s : State) : (writeParamReg pid x s).slots = s.slots := rfl
@[simp] theorem writeParamReg_gsrc (pid : Pid) (x : F32) (s : State) : (writeParamReg pid x s).gsrc = s.gsrc := rfl
@[simp] theorem writeParamReg_voices (pid : Pid) (x : F32) (s : State) : (writeParamReg pid x s).voices = s.voices := rfl
@[simp] theorem writeParamReg_effVolume (pid : Pid) (x : F32) (s : State) : (writeParamReg pid x s).effVolume = s.effVolume := rfl
@[simp] theorem writeParamReg_cnt (pid : Pid) (x : F32) (s : State) : (writeParamReg pid x s).cnt = s.cnt := rfl
@[simp] theorem writeParamReg_status (pid : Pid) (x : F32) (s : State) : (writeParamReg pid x s).status = s.status := rfl
@[simp] theorem writeParamReg_q (pid : Pid) (x : F32) (s : State) : (writeParamReg pid x s).q = s.q := rfl
@[simp] theorem writeParamReg_out (pid : Pid) (x : F32) (s : State) : (writeParamReg pid x s).out = s.out := rfl
@[simp] theorem writeParamReg_snap (pid : Pid) (x : F32) (s : State) : (writeParamReg pid x s).snap = s.snap := rfl
@[simp] theorem writeParamReg_host (pid : Pid) (x : F32) (s : State) : (writeParamReg pid x s).host = s.host := rfl
@[simp] theorem writeParamReg_draw (pid : Pid) (x : F32) (s : State) : (writeParamReg pid x s).draw = s.draw := rfl

@[simp] theorem writeGsrc_cfg (i : Fin 5) (x : F32) (s : State) : (writeGsrc i x s).cfg = s.cfg := rfl
@[simp] theorem writeGsrc_p (i : Fin 5) (x : F32) (s : State) : (writeGsrc i x s).p = s.p := rfl
@[simp] theorem writeGsrc_slots (i : Fin 5) (x : F32) (s : State) : (writeGsrc i x s).slots = s.slots := rfl
@[simp] theorem writeGsrc_gsrc (i : Fin 5) (x : F32) (s : State) : (writeGsrc i x s).gsrc = s.gsrc.set i.val x := rfl
@[simp] theorem writeGsrc_voices (i : Fin 5) (x : F32) (s : State) : (writeGsrc i x s).voices = s.voices := rfl
@[simp] theorem writeGsrc_effVolume (i : Fin 5) (x : F32) (s : State) : (writeGsrc i x s).effVolume = s.effVolume := rfl
@[simp] theorem writeGsrc_cnt (i : Fin 5) (x : F32) (s : State) : (writeGsrc i x s).cnt = s.cnt := rfl
@[simp] theorem writeGsrc_status (i : Fin 5) (x : F32) (s : State) : (writeGsrc i x s).status = s.status := rfl
@[simp] theorem writeGsrc_q (i : Fin 5) (x : F32) (s : State) : (writeGsrc i x s).q = s.q := rfl
@[simp] theorem writeGsrc_out (i : Fin 5) (x : F32) (s : State) : (writeGsrc i x s).out = s.out := rfl
@[simp] theorem writeGsrc_snap (i : Fin 5) (x : F32) (s : State) : (writeGsrc i x s).snap = s.snap := rfl
@[simp] theorem writeGsrc_host (i : Fin 5) (x : F32) (s : State) : (writeGsrc i x s).host = s.host := rfl
@[simp] theorem writeGsrc_draw (i : Fin 5) (x : F32) (s : State) : (writeGsrc i x s).draw = s.draw := rfl

@[simp] theorem updateVoice_cfg (v : Fin 32) (f : Voice → Voice) (s : State) : (updateVoice v f s).cfg = s.cfg := rfl
@[simp] theorem updateVoice_p (v : Fin 32) (f : Voice → Voice) (s : State) : (updateVoice v f s).p = s.p := rfl
@[simp] theorem updateVoice_slots (v : Fin 32) (f : Voice → Voice) (s : State) : (updateVoice v f s).slots = s.slots := rfl
@[simp] theorem updateVoice_gsrc (v : Fin 32) (f : Voice → Voice) (s : State) : (updateVoice v f s).gsrc = s.gsrc := rfl
@[simp] theorem updateVoice_voices (v : Fin 32) (f : Voice → Voice) (s : State) : (updateVoice v f s).voices = s.voices.set v.val (f s.voices[v.val]) := rfl
@[simp] theorem updateVoice_effVolume (v : Fin 32) (f : Voice → Voice) (s : State) : (updateVoice v f s).effVolume = s.effVolume := rfl
@[simp] theorem updateVoice_cnt (v : Fin 32) (f : Voice → Voice) (s : State) : (updateVoice v f s).cnt = s.cnt := rfl
@[simp] theorem updateVoice_status (v : Fin 32) (f : Voice → Voice) (s : State) : (updateVoice v f s).status = s.status := rfl
@[simp] theorem updateVoice_q (v : Fin 32) (f : Voice → Voice) (s : State) : (updateVoice v f s).q = s.q := rfl
@[simp] theorem updateVoice_out (v : Fin 32) (f : Voice → Voice) (s : State) : (updateVoice v f s).out = s.out := rfl
@[simp] theorem updateVoice_snap (v : Fin 32) (f : Voice → Voice) (s : State) : (updateVoice v f s).snap = s.snap := rfl
@[simp] theorem updateVoice_host (v : Fin 32) (f : Voice → Voice) (s : State) : (updateVoice v f s).host = s.host := rfl
@[simp] theorem updateVoice_draw (v : Fin 32) (f : Voice → Voice) (s : State) : (updateVoice v f s).draw = s.draw := rfl

@[simp] theorem updateSlot_cfg (i : Nat) (f : Slot → Slot) (s : State) : (updateSlot i f s).cfg = s.cfg := rfl
@[simp] theorem updateSlot_p (i : Nat) (f : Slot → Slot) (s : State) : (updateSlot i f s).p = s.p := rfl
@[simp] theorem updateSlot_slots (i : Nat) (f : Slot → Slot) (s : State) : (updateSlot i f s).slots = s.slots.modify i f := rfl
@[simp] theorem updateSlot_gsrc (i : Nat) (f : Slot → Slot) (s : State) : (updateSlot i f s).gsrc = s.gsrc := rfl
@[simp] theorem updateSlot_voices (i : Nat) (f : Slot → Slot) (s : State) : (updateSlot i f s).voices = s.voices := rfl
@[simp] theorem updateSlot_effVolume (i : Nat) (f : Slot → Slot) (s : State) : (updateSlot i f s).effVolume = s.effVolume := rfl
@[simp] theorem updateSlot_cnt (i : Nat) (f : Slot → Slot) (s : State) : (updateSlot i f s).cnt = s.cnt := rfl
@[simp] theorem updateSlot_status (i : Nat) (f : Slot → Slot) (s : State) : (updateSlot i f s).status = s.status := rfl
@[simp] theorem updateSlot_q (i : Nat) (f : Slot → Slot) (s : State) : (updateSlot i f s).q = s.q := rfl
@[simp] theorem updateSlot_out (i : Nat) (f : Slot → Slot) (s : State) : (updateSlot i f s).out = s.out := rfl
@[simp] theorem updateSlot_snap (i : Nat) (f : Slot → Slot) (s : State) : (updateSlot i f s).snap = s.snap := rfl
@[simp] theorem updateSlot_host (i : Nat) (f : Slot → Slot) (s : State) : (updateSlot i f s).host = s.host := rfl
@[simp] theorem updateSlot_draw (i : Nat) (f : Slot → Slot) (s : State) : (updateSlot i f s).draw = s.draw := rfl

@[simp] theorem reject_cfg (c : Cause) (s : State) : (reject c s).cfg = s.cfg := rfl
@[simp] theorem reject_p (c : Cause) (s : State) : (reject c s).p = s.p := rfl
@[simp] theorem reject_slots (c : Cause) (s : State) : (reject c s).slots = s.slots := rfl
@[simp] theorem reject_gsrc (c : Cause) (s : State) : (reject c s).gsrc = s.gsrc := rfl
@[simp] theorem reject_voices (c : Cause) (s : State) : (reject c s).voices = s.voices := rfl
@[simp] theorem reject_effVolume (c : Cause) (s : State) : (reject c s).effVolume = s.effVolume := rfl
@[simp] theorem reject_cnt (c : Cause) (s : State) : (reject c s).cnt = { s.cnt with err := s.cnt.err + 1, lastErr := causeCode c } := rfl
@[simp] theorem reject_status (c : Cause) (s : State) : (reject c s).status = s.status ||| statusRej := rfl
@[simp] theorem reject_q (c : Cause) (s : State) : (reject c s).q = s.q := rfl
@[simp] theorem reject_out (c : Cause) (s : State) : (reject c s).out = s.out := rfl
@[simp] theorem reject_snap (c : Cause) (s : State) : (reject c s).snap = s.snap := rfl
@[simp] theorem reject_host (c : Cause) (s : State) : (reject c s).host = s.host := rfl
@[simp] theorem reject_draw (c : Cause) (s : State) : (reject c s).draw = s.draw := rfl

@[simp] theorem countDrop_cfg (s : State) : (countDrop s).cfg = s.cfg := rfl
@[simp] theorem countDrop_p (s : State) : (countDrop s).p = s.p := rfl
@[simp] theorem countDrop_slots (s : State) : (countDrop s).slots = s.slots := rfl
@[simp] theorem countDrop_gsrc (s : State) : (countDrop s).gsrc = s.gsrc := rfl
@[simp] theorem countDrop_voices (s : State) : (countDrop s).voices = s.voices := rfl
@[simp] theorem countDrop_effVolume (s : State) : (countDrop s).effVolume = s.effVolume := rfl
@[simp] theorem countDrop_cnt (s : State) : (countDrop s).cnt = { s.cnt with drop := s.cnt.drop + 1 } := rfl
@[simp] theorem countDrop_status (s : State) : (countDrop s).status = s.status ||| statusOvf := rfl
@[simp] theorem countDrop_q (s : State) : (countDrop s).q = s.q := rfl
@[simp] theorem countDrop_out (s : State) : (countDrop s).out = s.out := rfl
@[simp] theorem countDrop_snap (s : State) : (countDrop s).snap = s.snap := rfl
@[simp] theorem countDrop_host (s : State) : (countDrop s).host = s.host := rfl
@[simp] theorem countDrop_draw (s : State) : (countDrop s).draw = s.draw := rfl

@[simp] theorem countFallback_cfg (s : State) : (countFallback s).cfg = s.cfg := rfl
@[simp] theorem countFallback_p (s : State) : (countFallback s).p = s.p := rfl
@[simp] theorem countFallback_slots (s : State) : (countFallback s).slots = s.slots := rfl
@[simp] theorem countFallback_gsrc (s : State) : (countFallback s).gsrc = s.gsrc := rfl
@[simp] theorem countFallback_voices (s : State) : (countFallback s).voices = s.voices := rfl
@[simp] theorem countFallback_effVolume (s : State) : (countFallback s).effVolume = s.effVolume := rfl
@[simp] theorem countFallback_cnt (s : State) : (countFallback s).cnt = { s.cnt with fallback := s.cnt.fallback + 1 } := rfl
@[simp] theorem countFallback_status (s : State) : (countFallback s).status = s.status ||| statusFbk := rfl
@[simp] theorem countFallback_q (s : State) : (countFallback s).q = s.q := rfl
@[simp] theorem countFallback_out (s : State) : (countFallback s).out = s.out := rfl
@[simp] theorem countFallback_snap (s : State) : (countFallback s).snap = s.snap := rfl
@[simp] theorem countFallback_host (s : State) : (countFallback s).host = s.host := rfl
@[simp] theorem countFallback_draw (s : State) : (countFallback s).draw = s.draw := rfl

@[simp] theorem countBlock_cfg (s : State) : (countBlock s).cfg = s.cfg := rfl
@[simp] theorem countBlock_p (s : State) : (countBlock s).p = s.p := rfl
@[simp] theorem countBlock_slots (s : State) : (countBlock s).slots = s.slots := rfl
@[simp] theorem countBlock_gsrc (s : State) : (countBlock s).gsrc = s.gsrc := rfl
@[simp] theorem countBlock_voices (s : State) : (countBlock s).voices = s.voices := rfl
@[simp] theorem countBlock_effVolume (s : State) : (countBlock s).effVolume = s.effVolume := rfl
@[simp] theorem countBlock_cnt (s : State) : (countBlock s).cnt = { s.cnt with block := s.cnt.block + 1 } := rfl
@[simp] theorem countBlock_status (s : State) : (countBlock s).status = s.status := rfl
@[simp] theorem countBlock_q (s : State) : (countBlock s).q = s.q := rfl
@[simp] theorem countBlock_out (s : State) : (countBlock s).out = s.out := rfl
@[simp] theorem countBlock_snap (s : State) : (countBlock s).snap = s.snap := rfl
@[simp] theorem countBlock_host (s : State) : (countBlock s).host = s.host := rfl
@[simp] theorem countBlock_draw (s : State) : (countBlock s).draw = s.draw := rfl

@[simp] theorem countNans_cfg (n : Nat) (s : State) : (countNans n s).cfg = s.cfg := by unfold countNans; split <;> rfl
@[simp] theorem countNans_p (n : Nat) (s : State) : (countNans n s).p = s.p := by unfold countNans; split <;> rfl
@[simp] theorem countNans_slots (n : Nat) (s : State) : (countNans n s).slots = s.slots := by unfold countNans; split <;> rfl
@[simp] theorem countNans_gsrc (n : Nat) (s : State) : (countNans n s).gsrc = s.gsrc := by unfold countNans; split <;> rfl
@[simp] theorem countNans_voices (n : Nat) (s : State) : (countNans n s).voices = s.voices := by unfold countNans; split <;> rfl
@[simp] theorem countNans_effVolume (n : Nat) (s : State) : (countNans n s).effVolume = s.effVolume := by unfold countNans; split <;> rfl
@[simp] theorem countNans_q (n : Nat) (s : State) : (countNans n s).q = s.q := by unfold countNans; split <;> rfl
@[simp] theorem countNans_out (n : Nat) (s : State) : (countNans n s).out = s.out := by unfold countNans; split <;> rfl
@[simp] theorem countNans_snap (n : Nat) (s : State) : (countNans n s).snap = s.snap := by unfold countNans; split <;> rfl
@[simp] theorem countNans_host (n : Nat) (s : State) : (countNans n s).host = s.host := by unfold countNans; split <;> rfl
@[simp] theorem countNans_draw (n : Nat) (s : State) : (countNans n s).draw = s.draw := by unfold countNans; split <;> rfl

@[simp] theorem queuePush_cfg (w : Word) (s : State) : (queuePush w s).cfg = s.cfg := by unfold queuePush; split <;> rfl
@[simp] theorem queuePush_p (w : Word) (s : State) : (queuePush w s).p = s.p := by unfold queuePush; split <;> rfl
@[simp] theorem queuePush_slots (w : Word) (s : State) : (queuePush w s).slots = s.slots := by unfold queuePush; split <;> rfl
@[simp] theorem queuePush_gsrc (w : Word) (s : State) : (queuePush w s).gsrc = s.gsrc := by unfold queuePush; split <;> rfl
@[simp] theorem queuePush_voices (w : Word) (s : State) : (queuePush w s).voices = s.voices := by unfold queuePush; split <;> rfl
@[simp] theorem queuePush_effVolume (w : Word) (s : State) : (queuePush w s).effVolume = s.effVolume := by unfold queuePush; split <;> rfl
@[simp] theorem queuePush_cnt (w : Word) (s : State) : (queuePush w s).cnt = if s.q.length < s.cfg.qcap then s.cnt else { s.cnt with drop := s.cnt.drop + 1 } := by unfold queuePush; split <;> rfl
@[simp] theorem queuePush_status (w : Word) (s : State) : (queuePush w s).status = if s.q.length < s.cfg.qcap then s.status else s.status ||| statusOvf := by unfold queuePush; split <;> rfl
@[simp] theorem queuePush_q (w : Word) (s : State) : (queuePush w s).q = if s.q.length < s.cfg.qcap then s.q ++ [w] else s.q.tail ++ [w] := by unfold queuePush; split <;> rfl
@[simp] theorem queuePush_out (w : Word) (s : State) : (queuePush w s).out = s.out := by unfold queuePush; split <;> rfl
@[simp] theorem queuePush_snap (w : Word) (s : State) : (queuePush w s).snap = s.snap := by unfold queuePush; split <;> rfl
@[simp] theorem queuePush_host (w : Word) (s : State) : (queuePush w s).host = s.host := by unfold queuePush; split <;> rfl
@[simp] theorem queuePush_draw (w : Word) (s : State) : (queuePush w s).draw = s.draw := by unfold queuePush; split <;> rfl

@[simp] theorem tableFallbackCheck_cfg (k : Fin 3) (s : State) : (tableFallbackCheck k s).cfg = s.cfg := by unfold tableFallbackCheck; split <;> rfl
@[simp] theorem tableFallbackCheck_p (k : Fin 3) (s : State) : (tableFallbackCheck k s).p = s.p := by unfold tableFallbackCheck; split <;> rfl
@[simp] theorem tableFallbackCheck_slots (k : Fin 3) (s : State) : (tableFallbackCheck k s).slots = s.slots := by unfold tableFallbackCheck; split <;> rfl
@[simp] theorem tableFallbackCheck_gsrc (k : Fin 3) (s : State) : (tableFallbackCheck k s).gsrc = s.gsrc := by unfold tableFallbackCheck; split <;> rfl
@[simp] theorem tableFallbackCheck_voices (k : Fin 3) (s : State) : (tableFallbackCheck k s).voices = s.voices := by unfold tableFallbackCheck; split <;> rfl
@[simp] theorem tableFallbackCheck_effVolume (k : Fin 3) (s : State) : (tableFallbackCheck k s).effVolume = s.effVolume := by unfold tableFallbackCheck; split <;> rfl
@[simp] theorem tableFallbackCheck_q (k : Fin 3) (s : State) : (tableFallbackCheck k s).q = s.q := by unfold tableFallbackCheck; split <;> rfl
@[simp] theorem tableFallbackCheck_out (k : Fin 3) (s : State) : (tableFallbackCheck k s).out = s.out := by unfold tableFallbackCheck; split <;> rfl
@[simp] theorem tableFallbackCheck_snap (k : Fin 3) (s : State) : (tableFallbackCheck k s).snap = s.snap := by unfold tableFallbackCheck; split <;> rfl
@[simp] theorem tableFallbackCheck_host (k : Fin 3) (s : State) : (tableFallbackCheck k s).host = s.host := by unfold tableFallbackCheck; split <;> rfl
@[simp] theorem tableFallbackCheck_draw (k : Fin 3) (s : State) : (tableFallbackCheck k s).draw = s.draw := by unfold tableFallbackCheck; split <;> rfl

@[simp] theorem resolveMatrix_cfg (s : State) : (resolveMatrix s).cfg = s.cfg := rfl
@[simp] theorem resolveMatrix_p (s : State) : (resolveMatrix s).p = s.p := rfl
@[simp] theorem resolveMatrix_slots (s : State) : (resolveMatrix s).slots = s.slots := rfl
@[simp] theorem resolveMatrix_gsrc (s : State) : (resolveMatrix s).gsrc = s.gsrc := rfl
@[simp] theorem resolveMatrix_voices (s : State) : (resolveMatrix s).voices = vmap (resolveVoice s.p s.gsrc s.slots) s.voices := rfl
@[simp] theorem resolveMatrix_cnt (s : State) : (resolveMatrix s).cnt = s.cnt := rfl
@[simp] theorem resolveMatrix_status (s : State) : (resolveMatrix s).status = s.status := rfl
@[simp] theorem resolveMatrix_q (s : State) : (resolveMatrix s).q = s.q := rfl
@[simp] theorem resolveMatrix_out (s : State) : (resolveMatrix s).out = s.out := rfl
@[simp] theorem resolveMatrix_snap (s : State) : (resolveMatrix s).snap = s.snap := rfl
@[simp] theorem resolveMatrix_host (s : State) : (resolveMatrix s).host = s.host := rfl
@[simp] theorem resolveMatrix_draw (s : State) : (resolveMatrix s).draw = s.draw := rfl

@[simp] theorem blockPrepare_cfg (s : State) : (blockPrepare s).cfg = s.cfg := by simp [blockPrepare]
@[simp] theorem blockPrepare_p (s : State) : (blockPrepare s).p = s.p := by simp [blockPrepare]
@[simp] theorem blockPrepare_slots (s : State) : (blockPrepare s).slots = s.slots := by simp [blockPrepare]
@[simp] theorem blockPrepare_gsrc (s : State) : (blockPrepare s).gsrc = s.gsrc := by simp [blockPrepare]
@[simp] theorem blockPrepare_voices (s : State) : (blockPrepare s).voices = vmapIdx (prepareVoice s.cfg s.p s.draw) s.voices := by simp [blockPrepare]
@[simp] theorem blockPrepare_effVolume (s : State) : (blockPrepare s).effVolume = s.effVolume := by simp [blockPrepare]
@[simp] theorem blockPrepare_q (s : State) : (blockPrepare s).q = s.q := by simp [blockPrepare]
@[simp] theorem blockPrepare_out (s : State) : (blockPrepare s).out = s.out := by simp [blockPrepare]
@[simp] theorem blockPrepare_snap (s : State) : (blockPrepare s).snap = s.snap := by simp [blockPrepare]
@[simp] theorem blockPrepare_host (s : State) : (blockPrepare s).host = s.host := by simp [blockPrepare]
@[simp] theorem blockPrepare_draw (s : State) : (blockPrepare s).draw = s.draw := by simp [blockPrepare]

@[simp] theorem renderBlock_cfg (s : State) : (renderBlock s).cfg = s.cfg := rfl
@[simp] theorem renderBlock_p (s : State) : (renderBlock s).p = s.p := rfl
@[simp] theorem renderBlock_slots (s : State) : (renderBlock s).slots = s.slots := rfl
@[simp] theorem renderBlock_gsrc (s : State) : (renderBlock s).gsrc = s.gsrc := rfl
@[simp] theorem renderBlock_effVolume (s : State) : (renderBlock s).effVolume = s.effVolume := rfl
@[simp] theorem renderBlock_cnt (s : State) : (renderBlock s).cnt = s.cnt := rfl
@[simp] theorem renderBlock_status (s : State) : (renderBlock s).status = s.status := rfl
@[simp] theorem renderBlock_q (s : State) : (renderBlock s).q = s.q := rfl
@[simp] theorem renderBlock_snap (s : State) : (renderBlock s).snap = s.snap := rfl
@[simp] theorem renderBlock_host (s : State) : (renderBlock s).host = s.host := rfl
@[simp] theorem renderBlock_draw (s : State) : (renderBlock s).draw = s.draw := rfl

@[simp] theorem nanGuardAll_cfg (s : State) : (nanGuardAll s).cfg = s.cfg := by simp [nanGuardAll]
@[simp] theorem nanGuardAll_p (s : State) : (nanGuardAll s).p = s.p := by simp [nanGuardAll]
@[simp] theorem nanGuardAll_slots (s : State) : (nanGuardAll s).slots = s.slots := by simp [nanGuardAll]
@[simp] theorem nanGuardAll_gsrc (s : State) : (nanGuardAll s).gsrc = s.gsrc := by simp [nanGuardAll]
@[simp] theorem nanGuardAll_voices (s : State) : (nanGuardAll s).voices = vmap (fun vc => { vc with flt := vmap nanGuard vc.flt }) s.voices := by simp [nanGuardAll]
@[simp] theorem nanGuardAll_effVolume (s : State) : (nanGuardAll s).effVolume = s.effVolume := by simp [nanGuardAll]
@[simp] theorem nanGuardAll_q (s : State) : (nanGuardAll s).q = s.q := by simp [nanGuardAll]
@[simp] theorem nanGuardAll_out (s : State) : (nanGuardAll s).out = s.out := by simp [nanGuardAll]
@[simp] theorem nanGuardAll_snap (s : State) : (nanGuardAll s).snap = s.snap := by simp [nanGuardAll]
@[simp] theorem nanGuardAll_host (s : State) : (nanGuardAll s).host = s.host := by simp [nanGuardAll]
@[simp] theorem nanGuardAll_draw (s : State) : (nanGuardAll s).draw = s.draw := by simp [nanGuardAll]

@[simp] theorem blockEnd_cfg (s : State) : (blockEnd s).cfg = s.cfg := by simp [blockEnd]
@[simp] theorem blockEnd_p (s : State) : (blockEnd s).p = s.p := by simp [blockEnd]
@[simp] theorem blockEnd_slots (s : State) : (blockEnd s).slots = s.slots := by simp [blockEnd]
@[simp] theorem blockEnd_gsrc (s : State) : (blockEnd s).gsrc = s.gsrc := by simp [blockEnd]
@[simp] theorem blockEnd_voices (s : State) : (blockEnd s).voices = vmap (fun vc => { vc with flt := vmap nanGuard vc.flt }) s.voices := by simp [blockEnd]
@[simp] theorem blockEnd_effVolume (s : State) : (blockEnd s).effVolume = s.effVolume := by simp [blockEnd]
@[simp] theorem blockEnd_q (s : State) : (blockEnd s).q = s.q := by simp [blockEnd]
@[simp] theorem blockEnd_out (s : State) : (blockEnd s).out = s.out := by simp [blockEnd]
@[simp] theorem blockEnd_host (s : State) : (blockEnd s).host = s.host := by simp [blockEnd]
@[simp] theorem blockEnd_draw (s : State) : (blockEnd s).draw = s.draw := by simp [blockEnd]

@[simp] theorem renderStep_cfg (s : State) : (renderStep s).cfg = s.cfg := by simp [renderStep]
@[simp] theorem renderStep_p (s : State) : (renderStep s).p = s.p := by simp [renderStep]
@[simp] theorem renderStep_slots (s : State) : (renderStep s).slots = s.slots := by simp [renderStep]
@[simp] theorem renderStep_gsrc (s : State) : (renderStep s).gsrc = s.gsrc := by simp [renderStep]
@[simp] theorem renderStep_q (s : State) : (renderStep s).q = s.q := by simp [renderStep]
@[simp] theorem renderStep_host (s : State) : (renderStep s).host = s.host := by simp [renderStep]

end Sys2Proof.Machine
end

