-- ==== Sys2Proof/Laws/Exec.lean ====
section
/-! SUPPORT. What a command can do, said once: every command completes, and its next state is one of a few named updates. -/

namespace Sys2Proof.Machine

/-- What a note command or SET_LSRC does to the voice it names. -/
def VoiceCommand (c : Params) (f : Voice → Voice) : Prop :=
  (∃ note vel, f = noteOnVoice note vel) ∨ f = noteOffVoice ∨ (∃ note vel, f = stealVoice c note vel) ∨
  ∃ (i : Fin 2) (x : F32), F32.isFinite x = true ∧
    f = fun vc => { vc with lsrc := vc.lsrc.set i.val (F32.clamp x F32.minusOne F32.one) }

/-- Every command completes (R137). -/
theorem exec_next (i : Instr) (s : State) : ∃ t, exec i s = .next t := by
  cases i <;> exact ⟨_, rfl⟩

/-- A command whose checks are followed by an effect either has the effect or is rejected. -/
theorem performed_cases {α : Type} (k : Except Cause α) (f : α → State → State) (s : State) :
    (∃ a, k = .ok a ∧ performed k f s = f a s) ∨ (∃ c, k = .error c ∧ performed k f s = reject c s) := by
  cases k with
  | ok a => exact .inl ⟨a, rfl, rfl⟩
  | error c => exact .inr ⟨c, rfl, rfl⟩

/-- The first check passed if both did. -/
theorem bind_ok {α β : Type} {k : Except Cause α} {g : α → Except Cause β} {b : β} (h : (k >>= g) = .ok b) :
    ∃ a, k = .ok a ∧ g a = .ok b := by
  cases k with
  | ok a => exact ⟨a, rfl, h⟩
  | error c => cases h

theorem checkValue_ok {x y : F32} (h : checkValue x = .ok y) : y = x ∧ F32.isFinite x = true := by
  unfold checkValue at h
  split at h
  · cases h; exact ⟨rfl, ‹_›⟩
  · cases h

theorem checkTarget_ok {w : BitVec 16} {p : Option Pid} (h : checkTarget w = .ok p) :
    ∀ q, p = some q → isModulatable q = true := by
  unfold checkTarget at h
  split at h
  · cases h; simp
  · split at h
    · split at h
      · cases h; rintro q ⟨⟩; assumption
      · cases h
    · cases h

theorem checkRoute_ok {en : Bool} {src : Option Source} {tgt : Option Pid} (h : checkRoute en src tgt = .ok ()) :
    en = true → ∃ x p, src = some x ∧ tgt = some p ∧ (isLocalSource x && isGlobal p) = false := by
  rintro rfl
  unfold checkRoute at h
  cases src with
  | none => simp at h
  | some x =>
    cases tgt with
    | none => simp at h
    | some p =>
      refine ⟨x, p, rfl, rfl, ?_⟩
      by_contra hc
      simp [Bool.not_eq_false] at hc
      simp [hc] at h

/-- What a command can do. -/
theorem exec_cases {i : Instr} {s t : State} (h : exec i s = .next t) :
    t = s ∨ (∃ c, t = reject c s) ∨
    (∃ pid x, F32.isFinite x = true ∧ t = writeParamReg pid (paramValue pid x) s) ∨
    (∃ v f, VoiceCommand s.cfg f ∧ t = updateVoice v f s) ∨
    (∃ j en src tgt, (∀ q, tgt = some q → isModulatable q = true) ∧
      (en = true → ∃ x p, src = some x ∧ tgt = some p ∧ (isLocalSource x && isGlobal p) = false) ∧
      t = updateSlot j (fun x => { x with src := src, tgt := tgt, en := en }) s) ∨
    (∃ j x, F32.isFinite x = true ∧
      t = updateSlot j (fun y => { y with intensity := F32.clamp x F32.minusOne F32.one }) s) ∨
    (∃ j x, F32.isFinite x = true ∧ t = writeGsrc j (F32.clamp x (gsrcRange j).1 (gsrcRange j).2) s) := by
  cases i with
  | nop => cases h; exact .inl rfl
  | writeParam pid val =>
    cases h
    obtain ⟨a, ha, hp⟩ | ⟨c, -, hp⟩ := performed_cases (checkWriteParam pid val) _ s
    · rw [hp]
      obtain ⟨p, -, hk⟩ := bind_ok ha
      obtain ⟨x, hx, hk⟩ := bind_ok hk
      cases hk
      exact .inr (.inr (.inl ⟨p, x, (checkValue_ok hx).1 ▸ (checkValue_ok hx).2, rfl⟩))
    · exact .inr (.inl ⟨c, hp⟩)
  | noteOn voice note vel =>
    cases h
    obtain ⟨a, -, hp⟩ | ⟨c, -, hp⟩ := performed_cases (checkNoteArgs voice note vel) _ s
    · exact .inr (.inr (.inr (.inl ⟨a.1, _, .inl ⟨a.2.1, a.2.2, rfl⟩, hp⟩)))
    · exact .inr (.inl ⟨c, hp⟩)
  | noteOff voice =>
    cases h
    obtain ⟨a, -, hp⟩ | ⟨c, -, hp⟩ := performed_cases (checkVoice voice) _ s
    · exact .inr (.inr (.inr (.inl ⟨a, _, .inr (.inl rfl), hp⟩)))
    · exact .inr (.inl ⟨c, hp⟩)
  | steal voice note vel =>
    cases h
    obtain ⟨a, -, hp⟩ | ⟨c, -, hp⟩ := performed_cases (checkNoteArgs voice note vel) _ s
    · exact .inr (.inr (.inr (.inl ⟨a.1, _, .inr (.inr (.inl ⟨a.2.1, a.2.2, rfl⟩)), hp⟩)))
    · exact .inr (.inl ⟨c, hp⟩)
  | slotRoute slot en src tgt =>
    cases h
    obtain ⟨a, ha, hp⟩ | ⟨c, -, hp⟩ := performed_cases (checkSlotRoute s.cfg.nSlots slot en src tgt) _ s
    · rw [hp]
      obtain ⟨i, -, hk⟩ := bind_ok ha
      obtain ⟨x, -, hk⟩ := bind_ok hk
      obtain ⟨p, ht, hk⟩ := bind_ok hk
      obtain ⟨u, hr, hk⟩ := bind_ok hk
      cases hk
      exact .inr (.inr (.inr (.inr (.inl ⟨i, en, x, p, checkTarget_ok ht, checkRoute_ok hr, rfl⟩))))
    · exact .inr (.inl ⟨c, hp⟩)
  | slotIntensity slot val =>
    cases h
    obtain ⟨a, ha, hp⟩ | ⟨c, -, hp⟩ := performed_cases (checkSlotIntensity s.cfg.nSlots slot val) _ s
    · rw [hp]
      obtain ⟨i, -, hk⟩ := bind_ok ha
      obtain ⟨x, hx, hk⟩ := bind_ok hk
      cases hk
      exact .inr (.inr (.inr (.inr (.inr (.inl ⟨i, x, (checkValue_ok hx).1 ▸ (checkValue_ok hx).2, rfl⟩)))))
    · exact .inr (.inl ⟨c, hp⟩)
  | setGsrc src val =>
    cases h
    obtain ⟨a, ha, hp⟩ | ⟨c, -, hp⟩ := performed_cases (checkSetGsrc src val) _ s
    · rw [hp]
      obtain ⟨i, -, hk⟩ := bind_ok ha
      obtain ⟨x, hx, hk⟩ := bind_ok hk
      cases hk
      exact .inr (.inr (.inr (.inr (.inr (.inr ⟨i, x, (checkValue_ok hx).1 ▸ (checkValue_ok hx).2, rfl⟩)))))
    · exact .inr (.inl ⟨c, hp⟩)
  | setLsrc voice src val =>
    cases h
    obtain ⟨a, ha, hp⟩ | ⟨c, -, hp⟩ := performed_cases (checkSetLsrc voice src val) _ s
    · rw [hp]
      obtain ⟨v, -, hk⟩ := bind_ok ha
      obtain ⟨i, -, hk⟩ := bind_ok hk
      obtain ⟨x, hx, hk⟩ := bind_ok hk
      cases hk
      exact .inr (.inr (.inr (.inl ⟨v, _,
        .inr (.inr (.inr ⟨i, x, (checkValue_ok hx).1 ▸ (checkValue_ok hx).2, rfl⟩)), rfl⟩)))
    · exact .inr (.inl ⟨c, hp⟩)

/-- A voice that a command updates reads the update, the others what they held. -/
theorem updateVoice_getElem (v u : Fin 32) (f : Voice → Voice) (s : State) :
    (updateVoice v f s).voices[u.val] = if u = v then f s.voices[v.val] else s.voices[u.val] := by
  by_cases h : u = v
  · simp [h]
  · have hne : v.val ≠ u.val := fun hv => h (Fin.ext hv.symm)
    simp [h, hne]

end Sys2Proof.Machine
end

