-- ==== Sys2Proof/Laws/Engine.lean ====
section
/-! SUPPORT. What a step can do, said once, and the induction over a drain packaged once. -/

namespace Sys2Proof.Machine

/-- Two next states that are equal answers are equal. -/
theorem next_inj {s t : State} (h : (.next s : Result) = .next t) : t = s := (Host.Outcome.next.inj h).symm

/-- Every word is applied to the end (R137). -/
theorem apply_next (w : Word) (s : State) : ∃ t, apply w s = .next t := by
  unfold apply
  split
  · exact exec_next _ s
  · exact ⟨_, rfl⟩

/-- What applying a word can do. -/
theorem apply_cases {w : Word} {s t : State} (h : apply w s = .next t) :
    (∃ i, decodeWord w = .ok i ∧ exec i s = .next t) ∨ (∃ c, decodeWord w = .error c ∧ t = reject c s) := by
  unfold apply at h
  split at h
  · exact .inl ⟨_, ‹_›, h⟩
  · cases h; exact .inr ⟨_, ‹_›, rfl⟩

/-- Every list of words is applied to the end (R137). -/
theorem applyAll_next (ws : List Word) (s : State) : ∃ t, applyAll ws s = .next t := by
  induction ws generalizing s with
  | nil => exact ⟨s, rfl⟩
  | cons w ws ih =>
    obtain ⟨t, ht⟩ := apply_next w s
    simpa [applyAll, ht] using ih t

/-- What every applied word keeps, every list of words keeps. -/
theorem applyAll_induction {Q : State → State → Prop} (refl : ∀ s, Q s s)
    (trans : ∀ {a b c}, Q a b → Q b c → Q a c) (word : ∀ {w s t}, apply w s = .next t → Q s t) :
    ∀ {ws : List Word} {s t : State}, applyAll ws s = .next t → Q s t := by
  intro ws
  induction ws with
  | nil => intro s t h; cases h; exact refl s
  | cons w ws ih =>
    intro s t h
    obtain ⟨u, hu⟩ := apply_next w s
    simp only [applyAll, hu] at h
    exact trans (word hu) (ih h)

/-- A drain completes (R137). -/
theorem queueDrain_next (s : State) : ∃ t, queueDrain s = .next t := applyAll_next _ _

/-- A block step is a drain and then a rendering (R86). -/
theorem blockStep_cases {s t : State} (h : blockStep s = .next t) :
    ∃ s', queueDrain s = .next s' ∧ t = renderStep s' := by
  obtain ⟨s', hs⟩ := queueDrain_next s
  rw [blockStep, hs] at h
  exact ⟨s', hs, next_inj h⟩

/-- With no move listed the clock ticks. -/
theorem step_nil {s : State} (h : s.host = []) : step s = blockStep s := by
  rw [step, h]; rfl

/-- A listed move is made and used up. -/
theorem step_cons {s : State} {m : HostMove} {rest : List HostMove} (h : s.host = m :: rest) :
    step s = hostMove m { s with host := rest } := by
  rw [step, h]

/-- The bytes of a word are that word (R49). -/
@[simp] theorem wordOfBytes_wordBytes (w : Word) : wordOfBytes (wordBytes w) = w := by
  simp only [wordOfBytes, wordBytes, place, Vector.getElem_mk, List.getElem_toArray, List.getElem_cons_zero,
    List.getElem_cons_succ]
  ext i hi
  simp only [BitVec.getElem_or, BitVec.getElem_shiftLeft, BitVec.getElem_setWidth, BitVec.getLsbD_extractLsb']
  interval_cases i <;> simp

/-- A push does not look at the moves to come. -/
theorem queuePush_with_host (w : Word) (s : State) (h : List HostMove) :
    queuePush w { s with host := h } = { queuePush w s with host := h } := by
  unfold queuePush; simp only; split <;> rfl

/-- All 8 bytes of a word are one push of it (R49, R58). -/
@[simp] theorem queueTransport_all (w : Word) (s : State) : queueTransport (wordBytes w) 8 s = queuePush w s := by
  simp [queueTransport]

/-- Fewer than 8 bytes push nothing (R50). -/
theorem queueTransport_part (bs : Vector Byte 8) {got : Fin 9} (h : got.val < 8) (s : State) :
    queueTransport bs got s = s := if_neg (fun e => by subst e; simp at h)

/-- What bytes on the transport can do: one push, or nothing (R50). -/
theorem queueTransport_cases (bs : Vector Byte 8) (got : Fin 9) (s : State) :
    queueTransport bs got s = queuePush (wordOfBytes bs) s ∨ queueTransport bs got s = s := by
  unfold queueTransport; split <;> simp

/-- What a step can do: a push, the bytes of a word, a read, or a block step. -/
theorem step_cases {s t : State} (h : step s = .next t) :
    (∃ w rest, s.host = .push w :: rest ∧ t = queuePush w { s with host := rest }) ∨
    (∃ bs got rest, s.host = .transport bs got :: rest ∧ t = queueTransport bs got { s with host := rest }) ∨
    (∃ m rest, (m = .readSnap ∨ m = .readOut) ∧ s.host = m :: rest ∧ t = { s with host := rest }) ∨
    (ticks s = true ∧ ∃ s', queueDrain (atTick s) = .next s' ∧ t = renderStep s') := by
  cases hh : s.host with
  | nil =>
    rw [step_nil hh] at h
    have : atTick s = s := by rw [atTick, hh]; simp only [List.tail_nil]; rw [← hh]
    refine .inr (.inr (.inr ⟨by rw [ticks, hh], ?_⟩))
    rw [this]; exact blockStep_cases h
  | cons m rest =>
    rw [step_cons hh] at h
    cases m with
    | push w => exact .inl ⟨w, rest, rfl, next_inj h⟩
    | transport bs got => exact .inr (.inl ⟨bs, got, rest, rfl, next_inj h⟩)
    | readSnap => exact .inr (.inr (.inl ⟨_, rest, .inl rfl, rfl, next_inj h⟩))
    | readOut => exact .inr (.inr (.inl ⟨_, rest, .inr rfl, rfl, next_inj h⟩))
    | tick =>
      have : atTick s = { s with host := rest } := by rw [atTick, hh, List.tail_cons]
      refine .inr (.inr (.inr ⟨by rw [ticks, hh], ?_⟩))
      rw [this]; exact blockStep_cases h

/-- A step that ticks is a drain and then a rendering (R86). -/
theorem step_of_ticks {s t : State} (ht : ticks s = true) (h : step s = .next t) :
    ∃ s', queueDrain (atTick s) = .next s' ∧ t = renderStep s' := by
  obtain ⟨w, rest, hh, -⟩ | ⟨bs, got, rest, hh, -⟩ | ⟨m, rest, rfl | rfl, hh, -⟩ | ⟨-, h'⟩ := step_cases h
  · simp [ticks, hh] at ht
  · simp [ticks, hh] at ht
  · simp [ticks, hh] at ht
  · simp [ticks, hh] at ht
  · exact h'

end Sys2Proof.Machine
end

