-- ==== Sys2Proof/Laws/Params.lean ====
section
/-! SUPPORT. The parameter registers: distinct parameters have distinct registers, and a register reads what was last
written to it. -/

namespace Sys2Proof.Machine

/-- The parameter registers stand in the order of `allPids`. -/
theorem allPids_getElem? (pid : Pid) : allPids[(pidIndex pid).val]? = some pid := by
  cases pid with
  | osc k p => fin_cases k <;> cases p <;> rfl
  | flt f p => fin_cases f <;> cases p <;> rfl
  | env e p => fin_cases e <;> cases p <;> rfl
  | glb p => cases p <;> rfl

/-- Distinct parameters have distinct registers. -/
theorem pidIndex_inj {a b : Pid} (h : pidIndex a = pidIndex b) : a = b := by
  have ha := allPids_getElem? a
  rw [h, allPids_getElem? b] at ha
  exact (Option.some.inj ha).symm

theorem pidIndex_val_inj {a b : Pid} : (pidIndex a).val = (pidIndex b).val ↔ a = b :=
  ⟨fun h => pidIndex_inj (Fin.ext h), fun h => h ▸ rfl⟩

/-- The effective registers stand in the order of `localTargets`. -/
theorem localTargets_getElem? {pid : Pid} {i : Fin 40} (h : effIndex pid = some i) :
    localTargets[i.val]? = some pid := by
  revert h
  cases pid with
  | osc k p => fin_cases k <;> cases p <;> simp [effIndex] <;> rintro rfl <;> rfl
  | flt f p => fin_cases f <;> cases p <;> simp [effIndex] <;> rintro rfl <;> rfl
  | env e p => fin_cases e <;> cases p <;> simp [effIndex, envIdx] <;> rintro rfl <;> rfl
  | glb p => simp [effIndex]

theorem localTargets_getElem {pid : Pid} {i : Fin 40} (h : effIndex pid = some i)
    (hi : i.val < localTargets.length := by first | exact i.isLt | simp) : localTargets[i.val] = pid := by
  have := localTargets_getElem? h
  rw [List.getElem?_eq_getElem hi] at this
  exact Option.some.inj this

/-- A group built by `paramRegs` reads the value of each parameter. -/
@[simp] theorem readParam_paramRegs (f : Pid → F32) (pid : Pid) : readParam (paramRegs f) pid = f pid := by
  have h := allPids_getElem? pid
  have hi : (pidIndex pid).val < allPids.length := (pidIndex pid).isLt
  rw [List.getElem?_eq_getElem hi] at h
  simp only [readParam, paramRegs, Vector.getElem_mk, List.getElem_toArray, List.getElem_map]
  rw [Option.some.inj h]

/-- A group built by `effRegs` holds the value of each local modulatable parameter. -/
theorem effRegs_getElem (f : Pid → F32) {pid : Pid} {i : Fin 40} (h : effIndex pid = some i) :
    (effRegs f)[i.val] = f pid := by
  simp only [effRegs, Vector.getElem_mk, List.getElem_toArray, List.getElem_map]
  rw [localTargets_getElem h]

/-- A parameter register reads what was written to it, the others what they held. -/
theorem readParam_writeParamReg (pid q : Pid) (x : F32) (s : State) :
    readParam (writeParamReg pid x s).p q = if q = pid then x else readParam s.p q := by
  by_cases h : q = pid
  · simp [readParam, writeParamReg, h]
  · have hne : (pidIndex pid).val ≠ (pidIndex q).val := fun hv => h (pidIndex_val_inj.mp hv).symm
    simp [readParam, writeParamReg, h, hne]

end Sys2Proof.Machine
end

