-- ==== Sys2Proof/Laws/Render.lean ====
section
/-! SUPPORT. Rendering, said once: a voice in the block is the voice rendered alone; what a sample keeps; and the induction
over everything that can happen to a voice in a step. -/

namespace Sys2Proof.Machine

/-- The filters of a voice after the non-finite guard. -/
def guarded (vc : Voice) : Voice := { vc with flt := vmap nanGuard vc.flt }

/-- Every range has its bounds in order. -/
theorem paramRange_le (pid : Pid) : F32.le (paramRange pid).1 (paramRange pid).2 = true := by
  cases pid with
  | osc k p => cases p <;> simp only [paramRange] <;> decide
  | flt f p => cases p <;> simp only [paramRange] <;> decide
  | env e p => cases p <;> simp only [paramRange] <;> decide
  | glb p => cases p <;> simp only [paramRange] <;> decide

@[simp] theorem settle_finite {d : Nat} {site : NanSite} {x : F32} (h : F32.isNaN x = false) :
    F32.settle d site x = x := by simp [F32.settle, h]

/-- What a voice's samples give in the block is what the voice gives alone. -/
theorem renderFrom_getElem (c : Params) (p : Vector F32 59) (d : Nat) (count n : Nat) (vs : Vector Voice 32)
    (out : Vector (List F32) 32) (v : Fin 32) :
    (renderFrom c p d count n vs out).1[v.val] = (renderVoice c p d v.val count n vs[v.val]).1 ∧
    (renderFrom c p d count n vs out).2[v.val] = out[v.val] ++ (renderVoice c p d v.val count n vs[v.val]).2 := by
  induction count generalizing n vs out with
  | zero => simp [renderFrom, renderVoice]
  | succ count ih =>
    simp only [renderFrom, renderVoice]
    refine ⟨?_, ?_⟩
    · rw [(ih _ _ _).1]; simp [sampleVoices]
    · rw [(ih _ _ _).2]; simp [sampleVoices, appendSamples]

/-- What a voice holds after a block. -/
theorem renderStep_voice (s : State) (v : Fin 32) :
    (renderStep s).voices[v.val] =
      guarded (renderVoice s.cfg s.p s.draw v.val s.cfg.block 0
        (prepareVoice s.cfg s.p s.draw v.val (resolveVoice s.p s.gsrc s.slots s.voices[v.val]))).1 := by
  simp [renderStep, renderBlock, (renderFrom_getElem _ _ _ _ _ _ _ v).1, guarded, blockPrepare, resolveMatrix]

/-- What a block leaves in a voice's buffer. -/
theorem renderStep_out (s : State) (v : Fin 32) :
    (renderStep s).out[v.val] =
      (renderVoice s.cfg s.p s.draw v.val s.cfg.block 0
        (prepareVoice s.cfg s.p s.draw v.val (resolveVoice s.p s.gsrc s.slots s.voices[v.val]))).2 := by
  simp [renderStep, renderBlock, (renderFrom_getElem _ _ _ _ _ _ _ v).2, blockPrepare, resolveMatrix]

/-- A sounding voice with its units stepped by one sample, before the life-cycle update (R88). -/
def stepped (c : Params) (p : Vector F32 59) (d v n : Nat) (vc : Voice) : Voice :=
  { vc with
    env := stepEnvs c p vc
    osc := #v[(stepOscs c p d v n vc).1.osc, (stepOscs c p d v n vc).2.1.osc, (stepOscs c p d v n vc).2.2.osc]
    flt := (route p (stepOscs c p d v n vc).1.out (stepOscs c p d v n vc).2.1.out (stepOscs c p d v n vc).2.2.out
      vc.flt).1 }

/-- What a sample can make of a voice (R89, R90, R97). -/
theorem voiceSample_cases (c : Params) (p : Vector F32 59) (d v n : Nat) (vc : Voice) :
    (vc.stage = .idle ∧ (voiceSample c p d v n vc).1 = vc) ∨
    (vc.stage ≠ .idle ∧ 1 < vc.fade ∧
      (voiceSample c p d v n vc).1 = { stepped c p d v n vc with fade := vc.fade - 1 }) ∨
    (vc.stage ≠ .idle ∧ vc.fade = 1 ∧ vc.pend = true ∧
      (voiceSample c p d v n vc).1 = startVoice vc.pnote vc.pvel (stepped c p d v n vc)) ∨
    (vc.stage ≠ .idle ∧ vc.fade = 1 ∧ vc.pend = false ∧
      (voiceSample c p d v n vc).1 = { reinit (stepped c p d v n vc) with stage := .idle }) ∨
    (vc.stage = .releasing ∧ vc.fade = 0 ∧ releaseEnded c (stepped c p d v n vc) = true ∧
      (voiceSample c p d v n vc).1 = { stepped c p d v n vc with stage := .idle }) ∨
    (vc.stage ≠ .idle ∧ vc.fade = 0 ∧ ¬(vc.stage = .releasing ∧ releaseEnded c (stepped c p d v n vc) = true) ∧
      (voiceSample c p d v n vc).1 = stepped c p d v n vc) := by
  by_cases hs : vc.stage = .idle
  · exact .inl ⟨hs, by rw [voiceSample, if_pos hs]⟩
  · have he : (voiceSample c p d v n vc).1 = lifeCycle c (stepped c p d v n vc) := by rw [voiceSample, if_neg hs]; rfl
    have hf : (stepped c p d v n vc).fade = vc.fade := rfl
    have hst : (stepped c p d v n vc).stage = vc.stage := rfl
    rw [he, lifeCycle, hf, hst]
    by_cases h0 : 0 < vc.fade
    · rw [if_pos h0]
      by_cases h1 : vc.fade = 1
      · rw [if_pos h1]
        cases hp : vc.pend with
        | true => exact .inr (.inr (.inl ⟨hs, h1, rfl, by rw [fadeEnd]; exact if_pos hp⟩))
        | false =>
          refine .inr (.inr (.inr (.inl ⟨hs, h1, rfl, ?_⟩)))
          rw [fadeEnd]
          exact if_neg (show ¬ vc.pend = true by rw [hp]; decide)
      · rw [if_neg h1]; exact .inr (.inl ⟨hs, by omega, rfl⟩)
    · have h0' : vc.fade = 0 := by omega
      rw [if_neg h0]
      by_cases hr : vc.stage = .releasing ∧ releaseEnded c (stepped c p d v n vc) = true
      · rw [if_pos hr]; exact .inr (.inr (.inr (.inr (.inl ⟨hr.1, h0', hr.2, rfl⟩))))
      · rw [if_neg hr]; exact .inr (.inr (.inr (.inr (.inr ⟨hs, h0', hr, rfl⟩))))

/-- What every sample keeps, the samples of a block keep. -/
theorem renderVoice_induction {R : Voice → Prop} {c : Params} {p : Vector F32 59} {d v : Nat}
    (sample : ∀ n vc, R vc → R (voiceSample c p d v n vc).1) (count : Nat) :
    ∀ (n : Nat) (vc : Voice), R vc → R (renderVoice c p d v count n vc).1 := by
  induction count with
  | zero => intro n vc h; exact h
  | succ count ih => intro n vc h; exact ih _ _ (sample n vc h)

/-- The end of a sample keeps the effective values, the LFO inputs and the coefficient caches of its voice. -/
theorem lifeCycle_keeps (c : Params) (vc : Voice) :
    (lifeCycle c vc).eff = vc.eff ∧ (lifeCycle c vc).lsrc = vc.lsrc ∧
    ∀ f : Fin 2, (lifeCycle c vc).flt[f.val].coefs = vc.flt[f.val].coefs ∧
      (lifeCycle c vc).flt[f.val].key = vc.flt[f.val].key ∧
      (lifeCycle c vc).flt[f.val].cvalid = vc.flt[f.val].cvalid := by
  unfold lifeCycle
  split
  · split
    · unfold fadeEnd
      split <;> simp [startVoice, reinit]
    · simp
  · split <;> simp

/-- A sample keeps the effective values, the LFO inputs and the coefficient caches of its voice. -/
theorem voiceSample_keeps (c : Params) (p : Vector F32 59) (d v n : Nat) (vc : Voice) :
    (voiceSample c p d v n vc).1.eff = vc.eff ∧ (voiceSample c p d v n vc).1.lsrc = vc.lsrc ∧
    ∀ f : Fin 2, (voiceSample c p d v n vc).1.flt[f.val].coefs = vc.flt[f.val].coefs ∧
      (voiceSample c p d v n vc).1.flt[f.val].key = vc.flt[f.val].key ∧
      (voiceSample c p d v n vc).1.flt[f.val].cvalid = vc.flt[f.val].cvalid := by
  unfold voiceSample
  split
  · simp
  · simp only [soundingSample]
    refine ⟨(lifeCycle_keeps _ _).1, (lifeCycle_keeps _ _).2.1, fun f => ?_⟩
    have h := (lifeCycle_keeps c { vc with
      env := stepEnvs c p vc
      osc := #v[(stepOscs c p d v n vc).1.osc, (stepOscs c p d v n vc).2.1.osc, (stepOscs c p d v n vc).2.2.osc]
      flt := (route p (stepOscs c p d v n vc).1.out (stepOscs c p d v n vc).2.1.out (stepOscs c p d v n vc).2.2.out
        vc.flt).1 }).2.2 f
    refine ⟨h.1.trans ?_, h.2.1.trans ?_, h.2.2.trans ?_⟩ <;> fin_cases f <;> simp only [route] <;> split <;> rfl

/-- The samples of a block keep the effective values, the LFO inputs and the coefficient caches of a voice. -/
theorem renderVoice_keeps (c : Params) (p : Vector F32 59) (d v count n : Nat) (vc : Voice) :
    (renderVoice c p d v count n vc).1.eff = vc.eff ∧ (renderVoice c p d v count n vc).1.lsrc = vc.lsrc ∧
    ∀ f : Fin 2, (renderVoice c p d v count n vc).1.flt[f.val].coefs = vc.flt[f.val].coefs ∧
      (renderVoice c p d v count n vc).1.flt[f.val].key = vc.flt[f.val].key ∧
      (renderVoice c p d v count n vc).1.flt[f.val].cvalid = vc.flt[f.val].cvalid := by
  refine renderVoice_induction (R := fun x => x.eff = vc.eff ∧ x.lsrc = vc.lsrc ∧
    ∀ f : Fin 2, x.flt[f.val].coefs = vc.flt[f.val].coefs ∧ x.flt[f.val].key = vc.flt[f.val].key ∧
      x.flt[f.val].cvalid = vc.flt[f.val].cvalid) ?_ count n vc ⟨rfl, rfl, fun _ => ⟨rfl, rfl, rfl⟩⟩
  intro n x ⟨h1, h2, h3⟩
  obtain ⟨k1, k2, k3⟩ := voiceSample_keeps c p d v n x
  exact ⟨k1.trans h1, k2.trans h2, fun f =>
    ⟨(k3 f).1.trans (h3 f).1, (k3 f).2.1.trans (h3 f).2.1, (k3 f).2.2.trans (h3 f).2.2⟩⟩

/-- A command keeps the instance parameters, the queue, the host's moves and the draw counter. -/
theorem exec_keeps {i : Instr} {s t : State} (h : exec i s = .next t) :
    t.cfg = s.cfg ∧ t.q = s.q ∧ t.host = s.host ∧ t.draw = s.draw := by
  obtain rfl | ⟨c, rfl⟩ | ⟨_, _, _, rfl⟩ | ⟨_, _, _, rfl⟩ | ⟨_, _, _, _, _, _, rfl⟩ | ⟨_, _, _, rfl⟩ | ⟨_, _, _, rfl⟩ :=
    exec_cases h <;> exact ⟨rfl, rfl, rfl, rfl⟩

/-- A word applied keeps the instance parameters, the queue, the host's moves and the draw counter. -/
theorem apply_keeps {w : Word} {s t : State} (h : apply w s = .next t) :
    t.cfg = s.cfg ∧ t.q = s.q ∧ t.host = s.host ∧ t.draw = s.draw := by
  obtain ⟨i, -, h⟩ | ⟨c, -, rfl⟩ := apply_cases h
  · exact exec_keeps h
  · exact ⟨rfl, rfl, rfl, rfl⟩

/-- What each word applied keeps of the instance and of every voice, a drain keeps. -/
theorem queueDrain_voices {R : Params → Voice → Prop}
    (cmd : ∀ c f vc, VoiceCommand c f → R c vc → R c (f vc)) {s u : State} (h : queueDrain s = .next u)
    (hs : ∀ v : Fin 32, R s.cfg s.voices[v.val]) : ∀ v : Fin 32, R u.cfg u.voices[v.val] := by
  refine applyAll_induction
    (Q := fun a b => (∀ v : Fin 32, R a.cfg a.voices[v.val]) → ∀ v : Fin 32, R b.cfg b.voices[v.val])
    (fun _ h => h) (fun h1 h2 h => h2 (h1 h)) ?_ h hs
  intro w a b hab ha v
  obtain ⟨i, -, h⟩ | ⟨c, -, rfl⟩ := apply_cases hab
  · obtain rfl | ⟨c, rfl⟩ | ⟨_, _, _, rfl⟩ | ⟨j, f, hf, rfl⟩ | ⟨_, _, _, _, _, _, rfl⟩ | ⟨_, _, _, rfl⟩ | ⟨_, _, _, rfl⟩ :=
      exec_cases h <;> try exact ha v
    rw [updateVoice_getElem]
    split
    · exact cmd _ _ _ hf (ha j)
    · exact ha v
  · exact ha v

/-- The induction over everything that can happen to a voice in a step: commands keep `R`; the resolution brings `R'`,
which the preparation and the samples keep and from which the guard comes back to `R`. -/
theorem step_voices {R R' : Params → Voice → Prop}
    (cmd : ∀ c f vc, VoiceCommand c f → R c vc → R c (f vc))
    (resolve : ∀ c p gsrc slots vc, R c vc → R' c (resolveVoice p gsrc slots vc))
    (prepare : ∀ c p d v vc, R' c vc → R' c (prepareVoice c p d v vc))
    (sample : ∀ c p d v n vc, R' c vc → R' c (voiceSample c p d v n vc).1)
    (guard : ∀ c vc, R' c vc → R c (guarded vc)) {s t : State}
    (hs : ∀ v : Fin 32, R s.cfg s.voices[v.val]) (h : step s = .next t) : ∀ v : Fin 32, R t.cfg t.voices[v.val] := by
  intro v
  obtain ⟨w, rest, -, rfl⟩ | ⟨bs, got, rest, -, rfl⟩ | ⟨m, rest, -, -, rfl⟩ | ⟨-, u, hu, rfl⟩ := step_cases h
  · simpa using hs v
  · rcases queueTransport_cases bs got { s with host := rest } with h | h <;> rw [h] <;> simpa using hs v
  · exact hs v
  · have h1 := queueDrain_voices (R := R) cmd hu (s := atTick s) hs v
    rw [renderStep_cfg, renderStep_voice]
    exact guard _ _ (renderVoice_induction (sample _ _ _ _) _ _ _ (prepare _ _ _ _ _ (resolve _ _ _ _ _ h1)))

end Sys2Proof.Machine
end

