-- ==== Sys2Proof/Laws/Counters.lean ====
section
/-! SUPPORT. The diagnostic counters and flags through a block: what each operation counts, and all of a rendering's counts
in one equation. -/

namespace Sys2Proof.Machine

theorem countNans_cnt (n : Nat) (s : State) :
    (countNans n s).cnt = { s.cnt with nan := s.cnt.nan + BitVec.ofNat 32 n } := by
  unfold countNans
  split
  · subst n; simp
  · rfl

theorem countNans_status (n : Nat) (s : State) :
    (countNans n s).status = if n = 0 then s.status else s.status ||| statusNanr := by
  unfold countNans
  split <;> rfl

theorem tableFallbackCheck_cnt (k : Fin 3) (s : State) :
    (tableFallbackCheck k s).cnt =
      { s.cnt with
        fallback := s.cnt.fallback + if s.cfg.nTables ≤ intParam s.p (.osc k .table) then 1 else 0 } := by
  unfold tableFallbackCheck
  split
  · rfl
  · simp

theorem tableFallbackCheck_status (k : Fin 3) (s : State) :
    (tableFallbackCheck k s).status =
      if s.cfg.nTables ≤ intParam s.p (.osc k .table) then s.status ||| statusFbk else s.status := by
  unfold tableFallbackCheck
  split <;> rfl

theorem blockPrepare_cnt (s : State) :
    (blockPrepare s).cnt =
      { s.cnt with
        fallback := s.cnt.fallback + (if s.cfg.nTables ≤ intParam s.p (.osc 0 .table) then 1 else 0) +
          (if s.cfg.nTables ≤ intParam s.p (.osc 1 .table) then 1 else 0) +
          (if s.cfg.nTables ≤ intParam s.p (.osc 2 .table) then 1 else 0) } := by
  simp [blockPrepare, tableFallbackCheck_cnt]

theorem blockPrepare_status (s : State) :
    (blockPrepare s).status =
      if s.cfg.nTables ≤ intParam s.p (.osc 0 .table) ∨ s.cfg.nTables ≤ intParam s.p (.osc 1 .table) ∨
          s.cfg.nTables ≤ intParam s.p (.osc 2 .table) then s.status ||| statusFbk else s.status := by
  simp only [blockPrepare, tableFallbackCheck_status, tableFallbackCheck_cfg, tableFallbackCheck_p]
  by_cases h0 : s.cfg.nTables ≤ intParam s.p (.osc 0 .table) <;>
    by_cases h1 : s.cfg.nTables ≤ intParam s.p (.osc 1 .table) <;>
    by_cases h2 : s.cfg.nTables ≤ intParam s.p (.osc 2 .table) <;> simp [h0, h1, h2, BitVec.or_assoc]

theorem nanGuardAll_cnt (s : State) :
    (nanGuardAll s).cnt =
      { s.cnt with nan := s.cnt.nan + BitVec.ofNat 32 ((s.voices.toList.map brokenFilters).sum) } := by
  rw [nanGuardAll, countNans_cnt]

theorem nanGuardAll_status (s : State) :
    (nanGuardAll s).status =
      if (s.voices.toList.map brokenFilters).sum = 0 then s.status else s.status ||| statusNanr := by
  rw [nanGuardAll, countNans_status]

theorem blockEnd_cnt (s : State) :
    (blockEnd s).cnt =
      { s.cnt with
        nan := s.cnt.nan + BitVec.ofNat 32 ((s.voices.toList.map brokenFilters).sum)
        block := s.cnt.block + 1 } := by
  simp only [blockEnd, countBlock, nanGuardAll_cnt]

theorem blockEnd_status (s : State) :
    (blockEnd s).status =
      if (s.voices.toList.map brokenFilters).sum = 0 then s.status else s.status ||| statusNanr := by
  simp only [blockEnd, countBlock, nanGuardAll_status]

/-- How many filters a block's samples leave broken (R117). -/
def brokenAfter (s : State) : Nat :=
  ((renderBlock (blockPrepare (resolveMatrix s))).voices.toList.map brokenFilters).sum

/-- Everything a rendering counts (R91, R106, R117). -/
theorem renderStep_cnt (s : State) :
    (renderStep s).cnt =
      { s.cnt with
        block := s.cnt.block + 1
        nan := s.cnt.nan + BitVec.ofNat 32 (brokenAfter s)
        fallback := s.cnt.fallback + (if s.cfg.nTables ≤ intParam s.p (.osc 0 .table) then 1 else 0) +
          (if s.cfg.nTables ≤ intParam s.p (.osc 1 .table) then 1 else 0) +
          (if s.cfg.nTables ≤ intParam s.p (.osc 2 .table) then 1 else 0) } := by
  rw [brokenAfter]
  simp only [renderStep, blockEnd_cnt, renderBlock_cnt, blockPrepare_cnt, resolveMatrix_cnt]
  rfl

/-- Every flag a rendering sets (R39). -/
theorem renderStep_status (s : State) :
    (renderStep s).status =
      (s.status ||| if s.cfg.nTables ≤ intParam s.p (.osc 0 .table) ∨ s.cfg.nTables ≤ intParam s.p (.osc 1 .table) ∨
          s.cfg.nTables ≤ intParam s.p (.osc 2 .table) then statusFbk else 0) |||
        (if brokenAfter s = 0 then 0 else statusNanr) := by
  have h : (renderStep s).status = if brokenAfter s = 0 then (blockPrepare (resolveMatrix s)).status
      else (blockPrepare (resolveMatrix s)).status ||| statusNanr := by
    rw [brokenAfter]
    simp only [renderStep, blockEnd_status, renderBlock_status]
  have hp : (blockPrepare (resolveMatrix s)).status =
      s.status ||| if s.cfg.nTables ≤ intParam s.p (.osc 0 .table) ∨ s.cfg.nTables ≤ intParam s.p (.osc 1 .table) ∨
        s.cfg.nTables ≤ intParam s.p (.osc 2 .table) then statusFbk else 0 := by
    refine (blockPrepare_status (resolveMatrix s)).trans ?_
    by_cases hf : s.cfg.nTables ≤ intParam s.p (.osc 0 .table) ∨ s.cfg.nTables ≤ intParam s.p (.osc 1 .table) ∨
        s.cfg.nTables ≤ intParam s.p (.osc 2 .table)
    · exact (if_pos hf).trans (by rw [if_pos hf]; rfl)
    · exact (if_neg hf).trans (by rw [if_neg hf]; exact (BitVec.or_zero).symm)
  rw [h, hp]
  by_cases hb : brokenAfter s = 0 <;> simp [hb]

/-- A drain counts and flags rejections only, and keeps the instance, the host's moves and the draw counter. -/
theorem queueDrain_keeps {s u : State} (h : queueDrain s = .next u) :
    u.cfg = s.cfg ∧ u.host = s.host ∧ u.draw = s.draw ∧ u.q = [] ∧ u.cnt.drop = s.cnt.drop ∧ u.cnt.nan = s.cnt.nan ∧
    u.cnt.fallback = s.cnt.fallback ∧ u.cnt.block = s.cnt.block ∧
    (u.status = s.status ∨ u.status = s.status ||| statusRej) := by
  refine applyAll_induction (s := { s with q := [] })
    (Q := fun s u => u.cfg = s.cfg ∧ u.host = s.host ∧ u.draw = s.draw ∧ u.q = s.q ∧ u.cnt.drop = s.cnt.drop ∧
      u.cnt.nan = s.cnt.nan ∧ u.cnt.fallback = s.cnt.fallback ∧ u.cnt.block = s.cnt.block ∧
      (u.status = s.status ∨ u.status = s.status ||| statusRej))
    (fun _ => ⟨rfl, rfl, rfl, rfl, rfl, rfl, rfl, rfl, .inl rfl⟩) ?_ ?_ h
  · rintro a b c ⟨h1, h2, h3, h4, h5, h6, h7, h8, h9⟩ ⟨k1, k2, k3, k4, k5, k6, k7, k8, k9⟩
    refine ⟨k1.trans h1, k2.trans h2, k3.trans h3, k4.trans h4, k5.trans h5, k6.trans h6, k7.trans h7, k8.trans h8, ?_⟩
    rcases h9 with h9 | h9 <;> rcases k9 with k9 | k9 <;> rw [k9, h9]
    · exact .inl rfl
    · exact .inr rfl
    · exact .inr rfl
    · exact .inr (by rw [BitVec.or_assoc, BitVec.or_self])
  · intro w a b hab
    obtain ⟨i, -, hi⟩ | ⟨c, -, rfl⟩ := apply_cases hab
    · obtain rfl | ⟨c, rfl⟩ | ⟨_, _, _, rfl⟩ | ⟨_, _, _, rfl⟩ | ⟨_, _, _, _, _, _, rfl⟩ | ⟨_, _, _, rfl⟩ | ⟨_, _, _, rfl⟩ :=
        exec_cases hi <;>
        first
        | exact ⟨rfl, rfl, rfl, rfl, rfl, rfl, rfl, rfl, .inl rfl⟩
        | exact ⟨rfl, rfl, rfl, rfl, rfl, rfl, rfl, rfl, .inr rfl⟩
    · exact ⟨rfl, rfl, rfl, rfl, rfl, rfl, rfl, rfl, .inr rfl⟩

/-- A block's effective values are those of its resolution. -/
theorem renderStep_eff (s : State) (v : Fin 32) :
    (renderStep s).voices[v.val].eff = (resolveVoice s.p s.gsrc s.slots s.voices[v.val]).eff := by
  rw [renderStep_voice]
  refine (renderVoice_keeps _ _ _ _ _ _ _).1.trans ?_
  unfold prepareVoice
  split <;> rfl

/-- A block writes no LFO input. -/
theorem renderStep_lsrc (s : State) (v : Fin 32) : (renderStep s).voices[v.val].lsrc = s.voices[v.val].lsrc := by
  rw [renderStep_voice]
  refine (renderVoice_keeps _ _ _ _ _ _ _).2.1.trans ?_
  unfold prepareVoice
  split <;> rfl

/-- The volume of a block is that of its resolution. -/
theorem renderStep_effVolume (s : State) : (renderStep s).effVolume = (resolveMatrix s).effVolume := by
  simp only [renderStep, blockEnd_effVolume, renderBlock_effVolume, blockPrepare_effVolume]

/-- A rendering ends with a snapshot of what it leaves (R91). -/
theorem renderStep_snap (s : State) :
    (renderStep s).snap.cnt = (renderStep s).cnt ∧ (renderStep s).snap.status = (renderStep s).status ∧
    (renderStep s).snap.volume = (renderStep s).effVolume ∧
    (renderStep s).snap.active = activeCount (renderStep s).voices ∧
    (renderStep s).snap.stages = vmap (fun vc => vc.stage) (renderStep s).voices ∧
    (renderStep s).snap.levels = vmap (fun vc => vmap (fun e => e.level) vc.env) (renderStep s).voices := by
  simp only [renderStep, blockEnd, snapshot, and_self]

end Sys2Proof.Machine
end

