-- ==== Sys2Proof/Laws/PerInstr.lean ====
section
/-! SUPPORT. For every command, as syntax: its word lies in its row of the opcode map (R67), whatever its operands, and in
no other row. -/

namespace Sys2Proof

/-- The row of the opcode map a command belongs to (R67). -/
def Laws.rowOf : Instr → Row
  | .nop => rowNop
  | .writeParam _ _ => rowWriteParam
  | .noteOn _ _ _ => rowNoteOn
  | .noteOff _ => rowNoteOff
  | .steal _ _ _ => rowSteal
  | .slotRoute _ _ _ _ => rowSlotRoute
  | .slotIntensity _ _ => rowSlotIntensity
  | .setGsrc _ _ => rowSetGsrc
  | .setLsrc _ _ _ => rowSetLsrc

/-- The encoded word of the command is one of its own row. -/
def Laws.RowFit.Statement (i : Instr) : Prop := inRow (Laws.rowOf i) (encode i) = true

theorem Laws.RowFit.nop : Laws.RowFit.Statement .nop := by
  unfold Laws.RowFit.Statement; decide

theorem Laws.RowFit.writeParam (pid : BitVec 16) (val : F32) :
    Laws.RowFit.Statement (.writeParam pid val) := by
  simp only [Laws.RowFit.Statement, inRow, beq_iff_eq, Laws.rowOf, encode, place]
  ext i hi
  interval_cases i <;> simp

theorem Laws.RowFit.noteOn (voice note vel : BitVec 8) :
    Laws.RowFit.Statement (.noteOn voice note vel) := by
  simp only [Laws.RowFit.Statement, inRow, beq_iff_eq, Laws.rowOf, encode, place]
  ext i hi
  interval_cases i <;> simp

theorem Laws.RowFit.noteOff (voice : BitVec 8) :
    Laws.RowFit.Statement (.noteOff voice) := by
  simp only [Laws.RowFit.Statement, inRow, beq_iff_eq, Laws.rowOf, encode, place]
  ext i hi
  interval_cases i <;> simp

theorem Laws.RowFit.steal (voice note vel : BitVec 8) :
    Laws.RowFit.Statement (.steal voice note vel) := by
  simp only [Laws.RowFit.Statement, inRow, beq_iff_eq, Laws.rowOf, encode, place]
  ext i hi
  interval_cases i <;> simp

theorem Laws.RowFit.slotRoute (slot : BitVec 8) (en : Bool) (src : BitVec 8) (tgt : BitVec 16) :
    Laws.RowFit.Statement (.slotRoute slot en src tgt) := by
  simp only [Laws.RowFit.Statement, inRow, beq_iff_eq, Laws.rowOf, encode, place]
  ext i hi
  interval_cases i <;> simp

theorem Laws.RowFit.slotIntensity (slot : BitVec 8) (val : F32) :
    Laws.RowFit.Statement (.slotIntensity slot val) := by
  simp only [Laws.RowFit.Statement, inRow, beq_iff_eq, Laws.rowOf, encode, place]
  ext i hi
  interval_cases i <;> simp

theorem Laws.RowFit.setGsrc (src : BitVec 8) (val : F32) :
    Laws.RowFit.Statement (.setGsrc src val) := by
  simp only [Laws.RowFit.Statement, inRow, beq_iff_eq, Laws.rowOf, encode, place]
  ext i hi
  interval_cases i <;> simp

theorem Laws.RowFit.setLsrc (voice src : BitVec 8) (val : F32) :
    Laws.RowFit.Statement (.setLsrc voice src val) := by
  simp only [Laws.RowFit.Statement, inRow, beq_iff_eq, Laws.rowOf, encode, place]
  ext i hi
  interval_cases i <;> simp

end Sys2Proof
end

