-- ==== Sys2Proof/Laws/Sample.lean ====
section
/-! SUPPORT. The parts of a sample (R89), each equal to what its rule writes out: lookup, oscillator output, filter, buses,
routing; and which units a sample leaves stepped. -/

namespace Sys2Proof.Machine

/-- The lookup is that of R107 and R108. -/
theorem lookup_looksUp (l : Nat) (frames : List (List F32)) (w ph : F32) :
    LooksUp l frames w ph (lookup l frames w ph) := by
  refine ⟨_, _, _, fun j => frameValue frames j _ _ _, rfl, rfl, rfl, fun _ => rfl, fun h => ?_, fun h => ⟨_, _, rfl, rfl, ?_⟩⟩
  · exact if_pos h
  · exact if_neg (by omega)

/-- The oscillator output is that of R109 and R110. -/
theorem oscOut_output (c : Params) (p : Vector F32 59) (vc : Voice) (k : Fin 3) :
    OscOutput c p vc k (oscOut c (oscParamsOf p vc k) vc.osc[k.val]) := by
  refine ⟨fun i => lookup c.frameLen (c.frames (tableOf c (intParam p (.osc k .table))))
    (readEff p vc (.osc k .wavePos)) (vc.osc[k.val].ph.toList.getD i F32.zero), fun i _ => ?_, ?_⟩
  · have : vc.osc[k.val].ph.toList.getD i.val F32.zero = vc.osc[k.val].ph[i.val] := by
      simp [List.getD_eq_getElem?_getD]
    show LooksUp _ _ _ _ (lookup _ _ _ (vc.osc[k.val].ph.toList.getD i.val F32.zero))
    rw [this]; exact lookup_looksUp _ _ _ _
  · have hl : (vc.osc[k.val].ph.toList.take (intParam p (.osc k .unison))) =
        (List.range (min (intParam p (.osc k .unison)) 7)).map (fun i => vc.osc[k.val].ph.toList.getD i F32.zero) := by
      apply List.ext_getElem
      · simp
      · intro i h1 h2
        simp at h1 h2 ⊢
        simp [h1]
    simp only [oscOut, mix, oscParamsOf, hl, List.map_map]
    rfl

/-- A value written to a register is that value, or both are NaNs. -/
theorem settle_sameOrNan (d : Nat) (site : NanSite) (x : F32) : sameOrNan (F32.settle d site x) x := by
  unfold sameOrNan F32.settle
  split
  · refine .inr ⟨?_, by assumption⟩
    unfold F32.freeNan; split <;> first | assumption | decide
  · exact .inl rfl

/-- The two buses into and around the filters are the sums of R92. -/
theorem mixWhere_eq_busSum (p : Vector F32 59) (b : Bool) (o : Fin 3 → F32) :
    mixWhere p b (o 0) (o 1) (o 2) = busSum p b o := by
  simp only [mixWhere, busSum, bypassed, List.foldl, List.finRange_succ, List.finRange_zero, List.map, List.filter]
  cases b <;> by_cases h0 : intParam p (.osc 0 .bypass) = 1 <;> by_cases h1 : intParam p (.osc 1 .bypass) = 1 <;> by_cases h2 : intParam p (.osc 2 .bypass) = 1 <;> simp [h0,h1,h2]

/-- One filter sample is that of R114. -/
theorem fltNext_sampled (mode : Nat) (x : F32) (s : Flt) : FilterSampled mode x s (fltNext x s) (fltOut mode x s) :=
  ⟨fltV1 x s, fltV2 x s, fltV3 x s, rfl, rfl, rfl, rfl, rfl⟩

/-- Routing in parallel (R92). -/
theorem route_parallel (p : Vector F32 59) (o : Fin 3 → F32) (flt : Vector Flt 2)
    (h : intParam p (.glb .routing) = 0) :
    route p (o 0) (o 1) (o 2) flt =
      (#v[fltNext (busSum p false o) flt[0], fltNext (busSum p false o) flt[1]],
        F32.add (F32.add (fltOut (intParam p (.flt 0 .mode)) (busSum p false o) flt[0])
          (fltOut (intParam p (.flt 1 .mode)) (busSum p false o) flt[1])) (busSum p true o)) := by
  rw [← mixWhere_eq_busSum, ← mixWhere_eq_busSum]; exact if_pos h

/-- Routing in series (R92). -/
theorem route_serial (p : Vector F32 59) (o : Fin 3 → F32) (flt : Vector Flt 2)
    (h : ¬ intParam p (.glb .routing) = 0) :
    route p (o 0) (o 1) (o 2) flt =
      (#v[fltNext (busSum p false o) flt[0],
          fltNext (fltOut (intParam p (.flt 0 .mode)) (busSum p false o) flt[0]) flt[1]],
        F32.add (fltOut (intParam p (.flt 1 .mode))
          (fltOut (intParam p (.flt 0 .mode)) (busSum p false o) flt[0]) flt[1]) (busSum p true o)) := by
  rw [← mixWhere_eq_busSum, ← mixWhere_eq_busSum]; exact if_neg h

/-- The oscillators' outputs do not depend on each other: sync changes phases only (R110). -/
theorem stepOscs_out (c : Params) (p : Vector F32 59) (d v n : Nat) (vc : Voice) :
    (stepOscs c p d v n vc).1.out = oscOut c (oscParamsOf p vc 0) vc.osc[0] ∧
    (stepOscs c p d v n vc).2.1.out = oscOut c (oscParamsOf p vc 1) vc.osc[1] ∧
    (stepOscs c p d v n vc).2.2.out = oscOut c (oscParamsOf p vc 2) vc.osc[2] := ⟨rfl, rfl, rfl⟩

/-- A sounding voice's units after a sample are its units stepped, unless the sample ends a fade. -/
theorem voiceSample_units {c : Params} {p : Vector F32 59} {d v n : Nat} {vc : Voice} (h : vc.stage ≠ .idle)
    (hf : vc.fade ≠ 1) :
    (voiceSample c p d v n vc).1.flt = (stepped c p d v n vc).flt ∧
    (voiceSample c p d v n vc).1.osc = (stepped c p d v n vc).osc ∧
    (voiceSample c p d v n vc).1.env = (stepped c p d v n vc).env := by
  rcases voiceSample_cases c p d v n vc with ⟨a, -⟩ | ⟨-, -, e⟩ | ⟨-, a, -⟩ | ⟨-, a, -⟩ | ⟨-, -, -, e⟩ | ⟨-, -, -, e⟩
  · exact absurd a h
  · rw [e]; exact ⟨rfl, rfl, rfl⟩
  · exact absurd a hf
  · exact absurd a hf
  · rw [e]; exact ⟨rfl, rfl, rfl⟩
  · rw [e]; exact ⟨rfl, rfl, rfl⟩

/-- A sample steps the integrators of a filter and keeps its coefficient cache (R114). -/
theorem stepped_flt (c : Params) (p : Vector F32 59) (d v n : Nat) (vc : Voice) (f : Fin 2) :
    (stepped c p d v n vc).flt[f.val].coefs = vc.flt[f.val].coefs ∧
    (stepped c p d v n vc).flt[f.val].key = vc.flt[f.val].key ∧
    (stepped c p d v n vc).flt[f.val].cvalid = vc.flt[f.val].cvalid := by
  unfold stepped route
  simp only
  match f with
  | 0 => split <;> exact ⟨rfl, rfl, rfl⟩
  | 1 => split <;> exact ⟨rfl, rfl, rfl⟩

/-- The last of `k + 1` samples, apart. -/
theorem renderVoice_succ (c : Params) (p : Vector F32 59) (d v k n : Nat) (vc : Voice) :
    (renderVoice c p d v (k + 1) n vc).1 = (voiceSample c p d v (n + k) (renderVoice c p d v k n vc).1).1 := by
  induction k generalizing n vc with
  | zero => rfl
  | succ k ih =>
    rw [renderVoice]
    simp only
    rw [ih, renderVoice]
    simp only
    congr 2
    omega

/-- A coefficient update keeps the integrators (R113). -/
theorem fltCoefUpdate_keeps (c : Params) (key : FltKey) (d v f : Nat) (x : Flt) :
    (fltCoefUpdate c key d v f x).ic1 = x.ic1 ∧ (fltCoefUpdate c key d v f x).ic2 = x.ic2 := by
  unfold fltCoefUpdate; split <;> exact ⟨rfl, rfl⟩

/-- The preparation touches the coefficient caches of a sounding voice and nothing else (R87, R113). -/
theorem prepareVoice_keeps (c : Params) (p : Vector F32 59) (d v : Nat) (vc : Voice) :
    prepareVoice c p d v vc = { vc with flt := (prepareVoice c p d v vc).flt } ∧
    (∀ f : Fin 2, (prepareVoice c p d v vc).flt[f.val].ic1 = vc.flt[f.val].ic1 ∧
      (prepareVoice c p d v vc).flt[f.val].ic2 = vc.flt[f.val].ic2) ∧
    (vc.stage = .idle → (prepareVoice c p d v vc).flt = vc.flt) := by
  refine ⟨?_, fun f => ?_, fun h => ?_⟩
  · unfold prepareVoice; split <;> rfl
  · unfold prepareVoice
    split
    · exact ⟨rfl, rfl⟩
    · match f with
      | 0 => exact fltCoefUpdate_keeps _ _ _ _ _ _
      | 1 => exact fltCoefUpdate_keeps _ _ _ _ _ _
  · rw [prepareVoice, if_pos h]

/-- A filter after a block is the guard of what the samples left (R91, R117). -/
theorem renderStep_flt (u : State) (v : Fin 32) (f : Fin 2) :
    (renderStep u).voices[v.val].flt[f.val] = nanGuard (unguarded u v f) := by
  rw [renderStep_voice]; simp [guarded, unguarded, blockPrepare, resolveMatrix]

end Sys2Proof.Machine
end

