-- ==== Sys2Proof/Tests/Slice0.lean ====
section
/-! SUPPORT. Tests of the model on the spec's own vectors (95_test_vectors.md), and a witness for the hypotheses of every
statement. Every expected value comes from the spec. -/

namespace Sys2Proof.Machine

-- One test at a time: many at once would each take a thread and its stack.
set_option Elab.async false

/-- The instance of 95_test_vectors.md after reset. -/
def t0 : State := State.resetFor Params.vectors

/-- The state a result goes on with, if it is one. -/
def nextOf (r : Result) : Option State :=
  match r with
  | .next s => some s
  | .fault _ => none
  | .refused _ => none

/-- Whether a command or word, run from a state, goes on to a state with a property. -/
def leads (r : Result) (p : State → Bool) : Bool := ((nextOf r).map p).getD false

/-- Whether a word applied to a state is rejected with a code. -/
def rejects (w : Word) (code : BitVec 8) (s : State) : Bool :=
  leads (apply w s) (fun t => t.cnt.err == s.cnt.err + 1 && t.cnt.lastErr == code && t.status == s.status ||| 2)

/-- Voice `v` of the reset instance replaced by a function of itself. -/
def t0With (v : Fin 32) (f : Voice → Voice) : State := updateVoice v f t0

/-! ## WellFormed: one ill-formed term for each check -/

theorem test_wf_param : Instr.wellFormed 16 (.writeParam 0x1300 F32.one) = false := by decide
theorem test_wf_value : Instr.wellFormed 16 (.writeParam 0x1002 F32.nan) = false := by decide
theorem test_wf_voice : Instr.wellFormed 16 (.noteOff 32) = false := by decide
theorem test_wf_note : Instr.wellFormed 16 (.noteOn 31 128 127) = false := by decide
theorem test_wf_vel : Instr.wellFormed 16 (.steal 31 127 128) = false := by decide
theorem test_wf_slot : Instr.wellFormed 16 (.slotIntensity 16 F32.one) = false := by decide
theorem test_wf_route_source : Instr.wellFormed 16 (.slotRoute 0 false 0x17 0) = false := by decide
theorem test_wf_route_target : Instr.wellFormed 16 (.slotRoute 0 false 0 0x1105) = false := by decide
theorem test_wf_route_incomplete : Instr.wellFormed 16 (.slotRoute 0 true 0 0x2001) = false := by decide
theorem test_wf_route_scope : Instr.wellFormed 16 (.slotRoute 0 true 0x10 0x4001) = false := by decide
theorem test_wf_gsrc : Instr.wellFormed 16 (.setGsrc 0x10 F32.half) = false := by decide
theorem test_wf_lsrc : Instr.wellFormed 16 (.setLsrc 2 0x17 F32.half) = false := by decide
theorem test_wf_good :
    ([.nop, .writeParam 0x4001 F32.half, .noteOn 31 127 0, .noteOff 31, .steal 0 0 127, .slotRoute 15 true 0x19 0x3206,
      .slotIntensity 15 F32.minusOne, .setGsrc 0x05 F32.one, .setLsrc 31 0x18 F32.zero] : List Instr).all
      (Instr.wellFormed 16) = true := by decide

/-! ## Decode: a word of each command written out field by field (R65), and bit by bit (R64) -/

theorem test_decode_nop : decodeWord (0x00#8 ++ 0#56) = .ok .nop := by decide
theorem test_decode_write_param :
    decodeWord (0x01#8 ++ 0x2001#16 ++ 0x00#8 ++ 0x447A0000#32) = .ok (.writeParam 0x2001 0x447A0000) := by decide
theorem test_decode_note_on :
    decodeWord (0x02#8 ++ 0x03#8 ++ 0x45#8 ++ 0x7F#8 ++ 0#32) = .ok (.noteOn 3 69 127) := by decide
theorem test_decode_note_off : decodeWord (0x03#8 ++ 0x03#8 ++ 0#48) = .ok (.noteOff 3) := by decide
theorem test_decode_steal :
    decodeWord (0x04#8 ++ 0x00#8 ++ 0x51#8 ++ 0x64#8 ++ 0#32) = .ok (.steal 0 81 100) := by decide
theorem test_decode_slot_route :
    decodeWord (0x05#8 ++ 0x00#8 ++ 0#7 ++ 1#1 ++ 0x10#8 ++ 0x2001#16 ++ 0#16) = .ok (.slotRoute 0 true 0x10 0x2001) := by
  decide
theorem test_decode_slot_intensity :
    decodeWord (0x06#8 ++ 0x01#8 ++ 0#16 ++ 0x3E800000#32) = .ok (.slotIntensity 1 0x3E800000) := by decide
theorem test_decode_set_gsrc :
    decodeWord (0x07#8 ++ 0x02#8 ++ 0#16 ++ 0xBF800000#32) = .ok (.setGsrc 0x02 0xBF800000) := by decide
theorem test_decode_set_lsrc :
    decodeWord (0x08#8 ++ 0x02#8 ++ 0x19#8 ++ 0#8 ++ 0xBF000000#32) = .ok (.setLsrc 2 0x19 0xBF000000) := by decide
theorem test_decode_bits :
    decodeWord 0b0000001000000011010001010111111100000000000000000000000000000000#64 = .ok (.noteOn 3 69 127) ∧
    decodeWord 0b0000001100000011000000000000000000000000000000000000000000000000#64 = .ok (.noteOff 3) ∧
    decodeWord 0b0000010100000000000000010001000000100000000000010000000000000000#64 =
      .ok (.slotRoute 0 true 0x10 0x2001) ∧
    decodeWord 0b0000100000000010000110010000000010111111000000000000000000000000#64 =
      .ok (.setLsrc 2 0x19 0xBF000000) := by decide
theorem test_decode_reserved : decodeWord 0x0900000000000000#64 = .error .badOpcode := by decide
theorem test_decode_rsv : decodeWord 0x0500020000000000#64 = .error .rsvNonzero := by decide
theorem test_encode_slot_clear :
    (asmSlotClear 4).map encode = [0x0504000000000000#64, 0x0604000000000000#64] := by decide
theorem test_table_word : decodeTableWord 64 0x0203457F00000000 = some (.noteOn 3 69 127) := by decide

/-! ## Commands, one each (V-CMD) -/

/-- V-CMD-1, V-CMD-2. -/
theorem test_nop : leads (apply 0x0000000000000000 t0) (fun t => t == t0) = true ∧ rejects 0x0000000000000001 2 t0 = true := by
  decide +kernel
/-- V-CMD-3, V-CMD-11: the opcode and RSV checks come first. -/
theorem test_reject_order :
    rejects 0xFF00000000000000 1 t0 = true ∧ rejects 0x0110020100000000 2 t0 = true ∧
    rejects 0x0220FF8000000000 3 t0 = true := by decide +kernel
/-- V-CMD-5, V-CMD-7: the clamp, at both ends. -/
theorem test_write_param_clamps :
    leads (apply 0x0120010047435000 t0) (fun t => readParam t.p (.flt 0 .cutoff) == 0x469C4000#32) = true ∧
    leads (apply 0x01100500BF000000 t0) (fun t => readParam t.p (.osc 0 .unison) == F32.one) = true := by decide +kernel
/-- V-CMD-6, V-CMD-8: truncation of an integer parameter; `-0.0` is kept. -/
theorem test_write_param_integer :
    leads (apply 0x011005004039999A t0) (fun t => readParam t.p (.osc 0 .unison) == F32.two) = true ∧
    leads (apply 0x0110010080000000 t0) (fun t => readParam t.p (.osc 0 .level) == 0x80000000#32) = true := by
  decide +kernel
/-- V-CMD-12, V-CMD-16: a note starts on an Idle voice; velocity 0 is a velocity. -/
theorem test_note_on :
    leads (apply 0x0203457F00000000 t0) (fun t =>
      t.voices[3].stage == .active && t.voices[3].note == 69 && t.voices[3].vel == 127 &&
      t.voices[3].env[2] == ⟨.attack, F32.zero, F32.zero, 0⟩ && t.voices[3].osc[1].ph[6] == 0x3F5B6DB7#32) = true ∧
    leads (apply 0x02033C0000000000 t0) (fun t => t.voices[3].stage == .active && t.voices[3].vel == 0) = true := by
  decide +kernel
/-- V-CMD-24: a note-on during a fade replaces the waiting note only. -/
theorem test_note_on_fading :
    leads (apply 0x0200516400000000 (t0With 0 (fun v => { v with stage := .active, note := 69, fade := 4, pend := true })))
      (fun t => t.voices[0].fade == 4 && t.voices[0].note == 69 && t.voices[0].pend && t.voices[0].pnote == 81 &&
        t.voices[0].pvel == 100) = true := by decide +kernel
/-- The example of R79. -/
theorem test_note_off :
    leads (apply 0x0303000000000000
      (t0With 3 (fun v => { v with stage := .active, env := v.env.set 0 ⟨.sustain, F32.half, F32.one, 0⟩ })))
      (fun t => t.voices[3].stage == .releasing && t.voices[3].env[0] == ⟨.release, F32.half, F32.half, 0⟩) = true := by
  decide +kernel
/-- V-CMD-17, V-CMD-18. -/
theorem test_note_off_idle :
    leads (apply 0x0303000000000000 t0) (fun t => t == t0) = true ∧ rejects 0x0328000000000000 3 t0 = true := by
  decide +kernel
/-- V-CMD-22: a sounding voice fades. -/
theorem test_steal :
    leads (apply 0x04003C6400000000 (t0With 0 (fun v => { v with stage := .active, note := 69, vel := 127 })))
      (fun t => t.voices[0].stage == .active && t.voices[0].note == 69 && t.voices[0].fade == 220 &&
        t.voices[0].pend && t.voices[0].pnote == 60 && t.voices[0].pvel == 100) = true := by decide +kernel
/-- V-CMD-21: an Idle voice starts at once. -/
theorem test_steal_idle :
    leads (apply 0x0400516400000000 t0) (fun t =>
      t.voices[0].stage == .active && t.voices[0].note == 81 && t.voices[0].fade == 0 && !t.voices[0].pend) = true := by
  decide +kernel
/-- V-CMD-26, V-CMD-33. -/
theorem test_slot_route :
    leads (apply 0x0500011020010000 t0) (fun t =>
      t.slots[0]? == some ⟨some .velocity, some (.flt 0 .cutoff), true, F32.zero⟩) = true ∧
    leads (apply 0x0500001040010000 t0) (fun t =>
      t.slots[0]? == some ⟨some .velocity, some (.glb .volume), false, F32.zero⟩) = true := by decide +kernel
/-- V-CMD-27 to V-CMD-32. -/
theorem test_slot_route_rejects :
    rejects 0x0510011020010000 6 t0 = true ∧ rejects 0x0500010620010000 7 t0 = true ∧
    rejects 0x0500011010000000 8 t0 = true ∧ rejects 0x0501011011050000 8 t0 = true ∧
    rejects 0x0500010020010000 11 t0 = true ∧ rejects 0x0500011040010000 9 t0 = true := by decide +kernel
/-- V-CMD-35, V-CMD-36. -/
theorem test_slot_intensity :
    leads (apply 0x0600000040000000 t0) (fun t => t.slots[0]? == some ⟨none, none, false, F32.one⟩) = true ∧
    rejects 0x06000000FF800000 5 t0 = true := by decide +kernel
/-- V-CMD-38 to V-CMD-40. -/
theorem test_set_gsrc :
    leads (apply 0x07020000C0400000 t0) (fun t => t.gsrc[1] == F32.minusOne) = true ∧
    rejects 0x071000003F000000 7 t0 = true ∧ rejects 0x070300007FC00000 5 t0 = true := by decide +kernel
/-- V-CMD-41 to V-CMD-43. -/
theorem test_set_lsrc :
    leads (apply 0x0802180040000000 t0) (fun t => t.voices[2].lsrc[0] == F32.one) = true ∧
    rejects 0x082018003F000000 3 t0 = true ∧ rejects 0x080217003F000000 7 t0 = true := by decide +kernel

/-! ## Queue and host moves -/

/-- V-Q-1 with `QCAP = 4`: of six words the last four stay. -/
theorem test_overflow :
    let s := [1, 2, 3, 4, 5, 6].foldl (fun s w => queuePush w s) { t0 with cfg := { Params.vectors with qcap := 4 } }
    s.q = [3, 4, 5, 6] ∧ s.cnt.drop = 2 ∧ s.status = 1 := by decide +kernel
/-- R49, R50: a whole word, and seven bytes of one. -/
theorem test_transport :
    (queueTransport #v[0x00, 0x00, 0x00, 0x00, 0x7F, 0x45, 0x03, 0x02] 8 t0).q = [0x0203457F00000000] ∧
    (queueTransport #v[0x00, 0x00, 0x00, 0x00, 0x7F, 0x45, 0x03, 0x02] 7 t0).q = [] := by
  decide +kernel
/-- R58: a tick between two words sent as bytes finds the first alone. -/
theorem test_tick_between :
    leads (step { t0 with host := [.transport (wordBytes 0x0200457F00000000) 8, .tick, .transport (wordBytes 0) 8] })
      (fun s => s.q == [0x0200457F00000000] && ticks s && leads (step s) (fun t =>
        t.q == [] && t.voices[0].stage == .active && t.host == [.transport (wordBytes 0) 8])) = true := by
  decide +kernel

/-! ## The datapath (V-OSC, V-LK, V-FLT, V-ENV, V-MM) -/

/-- V-OSC-1a, V-OSC-1d, V-OSC-1f: note 69, note 60, and the clamp. -/
theorem test_increment :
    phaseInc Params.vectors (basePitch 69 F32.zero F32.zero) = 0x3C2377EE#32 ∧
    phaseInc Params.vectors (basePitch 60 F32.zero F32.zero) = 0x3BC265DB#32 ∧
    phaseInc Params.vectors (basePitch 127 (0x42100000#32) F32.zero) = F32.half := by decide +kernel
/-- V-OSC-8: the detune of three instances. -/
theorem test_detune :
    detune 3 0 (0x42480000#32) = 0xBF000000#32 ∧ detune 3 1 (0x42480000#32) = F32.zero ∧
    detune 3 2 (0x42480000#32) = F32.half := by decide +kernel
/-- V-OSC-2. -/
theorem test_advance :
    advance (0x3F400000#32) F32.half = (0x3E800000#32, true) ∧ advance (0x3E800000#32) F32.half = (0x3F400000#32, false) ∧
    advance F32.half F32.half = (F32.zero, true) := by decide +kernel
/-- V-OSC-9: the mix of three instances. -/
theorem test_mix : mix 3 [0x00000000#32, 0x3F000000#32, 0x3E800000#32] F32.one = 0x3EDDB3D7#32 := by decide +kernel
/-- V-LK-2, V-LK-4: the wrap of the sample axis, and two frames. -/
theorem test_lookup :
    lookup 4 [[F32.zero, F32.one, F32.zero, F32.minusOne]] F32.zero (0x3F600000#32) = 0xBF000000#32 ∧
    lookup 4 [[F32.zero, F32.one, F32.zero, F32.minusOne], [F32.one, F32.one, F32.minusOne, F32.minusOne]]
      (0x3E800000#32) (0x3E000000#32) = 0x3F200000#32 := by decide +kernel
/-- V-FLT-1. -/
theorem test_coefficients :
    fltCoef Params.vectors ⟨0, 0x447A0000#32, F32.zero⟩ =
      ⟨0x3D922480#32, 0x40000000#32, 0x3F5F0897#32, 0x3D7EA566#32, 0x3B915EA3#32⟩ := by decide +kernel
/-- The tangent just below, at and above a quarter turn, and at 1.0 (R10): the exact values rounded, by a hand calculation
with 300 digits. -/
theorem test_tan :
    Math.tanf .reference (0x3FC90FDA#32) = 0x4B4A1BDA#32 ∧ Math.tanf .reference (0x3FC90FDB#32) = 0xCBAE8A4A#32 ∧
    Math.tanf .reference (0x3F800000#32) = 0x3FC75923#32 ∧ Math.tanf .reference (0xC2C80000#32) = 0x3F1653A7#32 := by
  decide +kernel
/-- The example of R114: the first sample of the low-pass. -/
theorem test_filter_sample :
    let x : Flt := ⟨F32.zero, F32.zero, ⟨0x3D922480#32, 0x40000000#32, 0x3F5F0897#32, 0x3D7EA566#32, 0x3B915EA3#32⟩,
      ⟨0, 0x447A0000#32, F32.zero⟩, true⟩
    fltOut 0 F32.one x = 0x3B915EA3#32 ∧ (fltNext F32.one x).ic1 = 0x3DFEA566#32 ∧
    (fltNext F32.one x).ic2 = 0x3C115EA3#32 := by decide +kernel
/-- V-ENV-1. -/
theorem test_segment_length :
    segLen Params.vectors (0x3C23D70A#32) = 441 ∧ segLen Params.vectors (0x3FC00000#32) = 66150 ∧
    segLen Params.vectors (0x3727C5AC#32) = 0 := by decide +kernel
/-- V-ENV-4: the first sample of an attack of slope 2 over 4 samples. -/
theorem test_attack :
    envStep { Params.vectors with fs := 4 } ⟨F32.one, F32.one, F32.half, F32.one, F32.two, F32.one, F32.two⟩
      ⟨.attack, F32.zero, F32.zero, 0⟩ = ⟨.attack, 0x3D800000#32, F32.zero, 1⟩ := by decide +kernel
/-- V-ENV-5: zero-length segments pass to Sustain in one sample. -/
theorem test_zero_segments :
    envStep Params.vectors ⟨F32.zero, F32.zero, 0x3F333333#32, F32.zero, F32.one, F32.one, F32.one⟩
      ⟨.attack, 0x3E4CCCCD#32, 0x3E4CCCCD#32, 0⟩ = ⟨.sustain, 0x3F333333#32, 0x3F333333#32, 0⟩ := by decide +kernel
/-- V-MM-3 and the spans of R128. -/
theorem test_matrix_operands :
    sourceValue t0.gsrc { voiceReset Params.vectors with vel := 100 } .velocity = 0x3F499326#32 ∧
    paramSpan (.flt 0 .cutoff) = 0x469C1800#32 ∧ paramSpan (.env 1 .attackSlope) = 0x411E6666#32 := by decide +kernel

/-! ## One block -/

/-- Program P1, block 1. -/
theorem test_block_p1 :
    leads (step { t0 with q := [0x011009003F800000, 0x0200457F00000000] }) (fun t =>
      t.out[0] == [0x00000000#32, 0x3D2377EE#32, 0x3DA377EE#32, 0x3DF533E5#32] &&
      t.out[31] == List.replicate 4 F32.zero && t.cnt == ⟨0, 0, 0, 0, 1, 0⟩ && t.status == 0 && t.q.isEmpty &&
      t.voices[0].env[0] == ⟨.sustain, F32.one, F32.one, 0⟩ && t.voices[0].osc[0].ph[1] == 0x3E124925#32 &&
      t.snap.active == 1) = true := by decide +kernel
/-- Program P2: modulation, both filters and the volume port. -/
theorem test_block_p2 :
    leads (step { t0 with q := [0x01200100447A0000, 0x0500011020010000, 0x060000003F000000, 0x070300003E800000,
        0x0501010340010000, 0x060100003F000000, 0x014001003F000000, 0x0203457F00000000] }) (fun t =>
      t.out[3] == [0x00000000#32, 0x3D24E5F8#32, 0x3DED85F3#32, 0x3E44C396#32] &&
      readEff t.p t.voices[3] (.flt 0 .cutoff) == 0x462BB800#32 &&
      readEff t.p t.voices[4] (.flt 0 .cutoff) == 0x447A0000#32 && t.effVolume == 0x3F200000#32) = true := by
  decide +kernel
/-- Program P3, block 1, from the queue its pushes leave. -/
theorem test_block_p3 :
    leads (step { t0 with q := [0x0220FF8000000000, 0x011300003F800000, 0x0303000000000000, 0x0000000000000000] }) (fun t =>
      t.cnt == ⟨0, 2, 0, 0, 1, 4⟩ && t.status == 2 && t.snap.active == 0) = true := by decide +kernel

/-! ## Witnesses: for every statement with hypotheses, values that meet them, one for each clause at its boundary -/

/-- A voice that sounds a note. -/
def sounding : Voice := { voiceReset Params.vectors with stage := .active, note := 69, vel := 127 }

/-- The reset instance with a note-on queued for voice 0. -/
def tNote : State := { t0 with q := [0x0200457F00000000] }

/-- An attack, decay and release of one second each at FS = 4: 4 samples. -/
def slowEnv : EnvParams := ⟨F32.one, F32.one, F32.half, F32.one, F32.one, F32.one, F32.one⟩

/-- The vectors' instance at FS = 4. -/
def slow : Params := { Params.vectors with fs := 4 }

/-- AcceptedWordIsEncoding. -/
theorem witness_accepted_word : decodeWord 0x0800180000000000 = .ok (.setLsrc 0 0x18 F32.zero) := by decide
/-- MalformedWordsAreRejected: both clauses, at the boundary opcodes. -/
theorem witness_malformed_words :
    0x09 ≤ (opcodeOf 0x0900000000000000).toNat ∧ (opcodeOf 0x0800000100000000).toNat ≤ 0x08 ∧
    (0x0800000100000000 : Word) &&& rsvBits (opcodeOf 0x0800000100000000) ≠ 0 := by decide
/-- TransportDeliversWords: seven bytes of a stream, a whole word, seven bytes of one, and two words before a tick. -/
theorem witness_transport :
    (List.replicate 7 (0 : Byte)).length < 8 ∧
    ({ t0 with host := [.transport (wordBytes 7) 8] } : State).host = .transport (wordBytes 7) 8 :: [] ∧
    ((7 : Fin 9).val < 8 ∧
      ({ t0 with host := [.transport (wordBytes 7) 7] } : State).host = .transport (wordBytes 7) 7 :: []) ∧
    ({ t0 with host := [.transport (wordBytes 7) 8, .transport (wordBytes 8) 8, .tick] } : State).host =
      [(7 : Word), 8].map (fun w => .transport (wordBytes w) 8) ++ [.tick] := ⟨by decide, rfl, ⟨by decide, rfl⟩, rfl⟩
/-- StepRunsDecodedInstruction: both clauses. -/
theorem witness_step_runs :
    (ticks tNote = true ∧ tNote.q = [0x0200457F00000000] ∧ decodeWord 0x0200457F00000000 = .ok (.noteOn 0 69 127)) ∧
    decodeTableWord 64 0x0300000000000000 = some (.noteOff 0) := by decide
/-- DrainIsSequential: an empty queue, the drain, a queue that is not full, and a tick. -/
theorem witness_drain :
    t0.q = [] ∧ (∃ u, queueDrain tNote = .next u) ∧ tNote.q.length < tNote.cfg.qcap ∧ ticks tNote = true ∧ atTick tNote = tNote :=
  ⟨rfl, ⟨_, rfl⟩, by decide, rfl, rfl⟩
/-- PushEffect: a push into a queue with one free place, and into a full one. -/
theorem witness_push :
    ({ t0 with host := [.push 7], q := List.replicate 7 0 } : State).q.length < Params.vectors.qcap ∧
    ({ t0 with host := [.push 7], q := List.replicate 7 0 } : State).host = .push 7 :: [] ∧
    Params.vectors.qcap ≤ ({ t0 with host := [.push 7], q := List.replicate 8 0 } : State).q.length := by decide
/-- OverflowKeepsNewest: a full queue. -/
theorem witness_overflow :
    1 ≤ ({ t0 with q := List.replicate 8 0 } : State).cfg.qcap ∧
    ({ t0 with q := List.replicate 8 0 } : State).q.length ≤ ({ t0 with q := List.replicate 8 0 } : State).cfg.qcap := by
  decide
/-- HostMovesTouchOnlyTheQueue: a push, and a read. -/
theorem witness_host_moves :
    (ticks { t0 with host := [.push 0] } = false ∧ ∃ t, step { t0 with host := [.push 0] } = .next t) ∧
    ticks { t0 with host := [.readSnap] } = false ∧ (∃ t, step { t0 with host := [.readSnap] } = .next t) ∧
    ({ t0 with host := [.readSnap] } : State).host.head? = some .readSnap :=
  ⟨⟨rfl, _, rfl⟩, rfl, ⟨_, rfl⟩, rfl⟩
/-- NopResult: a word of opcode 0 that is no NOP, a queue with room and a full one. -/
theorem witness_nop :
    opcodeOf 0x0080000000000000 = 0x00#8 ∧ t0.q.length < t0.cfg.qcap ∧
    ({ t0 with q := List.replicate 8 0 } : State).cfg.qcap ≤ ({ t0 with q := List.replicate 8 0 } : State).q.length := by
  decide
/-- WriteParamResult: the three clauses; the last identifier of an oscillator and the one after it. -/
theorem witness_write_param :
    pidOfBits 0x120A = none ∧ pidOfBits 0x1209 = some (.osc 2 .bypass) ∧ F32.isFinite F32.inf = false ∧
    F32.isFinite (0x7F7FFFFF#32) = true := by decide
/-- NoteOnResult and StealResult: voices 32 and 31, note 128 and 127. -/
theorem witness_note_operands :
    32 ≤ (32 : BitVec 8).toNat ∧ (31 : BitVec 8).toNat = (31 : Fin 32).val ∧ 128 ≤ (128 : BitVec 8).toNat ∧
    (127 : BitVec 8).toNat < 128 := by decide
/-- NoteOnResult, NoteOffResult and StealResult: a fading voice, an Idle one, a sounding one, and FADE 0. -/
theorem witness_note_voices :
    0 < (t0With 31 (fun _ => { sounding with fade := 1 })).voices[31].fade ∧
    (t0.voices[31].fade = 0 ∧ t0.voices[31].stage = .idle) ∧
    ((t0With 31 (fun _ => sounding)).voices[31].fade = 0 ∧ (t0With 31 (fun _ => sounding)).voices[31].stage = .active) ∧
    t0.cfg.fadeLen ≠ 0 ∧ ({ t0 with cfg := { Params.vectors with fadeLen := 0 } } : State).cfg.fadeLen = 0 := by
  decide +kernel
/-- SlotRouteResult: slots 16 and 15, a reserved source, an integer target, an incomplete pair, a scope conflict, and
accepted pairs. -/
theorem witness_slot_route :
    t0.cfg.nSlots ≤ (16 : BitVec 8).toNat ∧ (15 : BitVec 8).toNat < t0.cfg.nSlots ∧
    sourceOfBits 0x1A = none ∧ sourceOfBits 0x19 = some (.lfo 1) ∧
    ((pidOfBits 0x1000).map isModulatable).getD false = false ∧
    (pidOfBits 0x4001 = some (.glb .volume) ∧ isModulatable (.glb .volume) = true) ∧
    (isLocalSource (.lfo 1) = true ∧ isGlobal (.glb .volume) = true) ∧
    (sourceOfBits 0x05 = some (.glfo 1) ∧ ¬(isLocalSource (.glfo 1) = true ∧ isGlobal (.glb .volume) = true)) := by decide
/-- SlotIntensityResult. -/
theorem witness_slot_intensity :
    t0.cfg.nSlots ≤ (16 : BitVec 8).toNat ∧ (15 : BitVec 8).toNat < t0.cfg.nSlots ∧ F32.isFinite F32.nan = false ∧
    F32.isFinite F32.minusOne = true := by decide
/-- SetGsrcResult: sources 0, 6, 1 and 5. -/
theorem witness_set_gsrc :
    (0 : BitVec 8).toNat = 0 ∧ 5 < (6 : BitVec 8).toNat ∧ (1 : BitVec 8).toNat = (0 : Fin 5).val + 1 ∧
    (5 : BitVec 8).toNat = (4 : Fin 5).val + 1 ∧ F32.isFinite F32.inf = false ∧ F32.isFinite F32.two = true := by decide
/-- SetLsrcResult: voices 32 and 31, sources 0x17, 0x1A, 0x18 and 0x19. -/
theorem witness_set_lsrc :
    32 ≤ (32 : BitVec 8).toNat ∧ (31 : BitVec 8).toNat = (31 : Fin 32).val ∧ (0x17 : BitVec 8).toNat < 0x18 ∧
    0x19 < (0x1A : BitVec 8).toNat ∧ (0x18 : BitVec 8).toNat = 0x18 + (0 : Fin 2).val ∧
    (0x19 : BitVec 8).toNat = 0x18 + (1 : Fin 2).val ∧ F32.isFinite F32.nan = false ∧ F32.isFinite F32.two = true := by
  decide
/-- RejectionsFollowCheckOrder: the three clauses. -/
theorem witness_check_order :
    0x09 ≤ (opcodeOf 0x0900000000000000).toNat ∧
    ((opcodeOf 0x0800000100000000).toNat < 0x09 ∧ decodeWord 0x0800000100000000 = .error .rsvNonzero) ∧
    decodeWord 0x0220FF8000000000 = .ok (.noteOn 32 255 128) ∧ firstCode 16 (.noteOn 32 255 128) = some 3 := by decide
/-- AcceptedCommandsLeaveDiagnostics. -/
theorem witness_accepted : Instr.wellFormed t0.cfg.nSlots (.slotRoute 15 true 0x05 0x4001) = true := by decide
/-- FlagsStickForLife, InstanceParametersNeverChange, BlockCounterCountsTicks, SnapshotCopiesState: a tick and a push; and
a recorded cause. -/
theorem witness_steps :
    (∃ t, step tNote = .next t) ∧ ticks tNote = true ∧ (∃ t, step { t0 with host := [.push 0] } = .next t) ∧
    ticks { t0 with host := [.push 0] } = false ∧
    ({ t0 with cnt := { t0.cnt with lastErr := 11 } } : State).cnt.lastErr ≠ 0 :=
  ⟨⟨_, rfl⟩, rfl, ⟨_, rfl⟩, rfl, by decide⟩
/-- OnlyNamedCommandsWrite: a tick that changes a base register, a slot and both kinds of source input. -/
theorem witness_writes :
    leads (step { t0 with q := [0x014001003F000000, 0x060F00003F000000, 0x070500003F000000, 0x081F19003F000000] })
      (fun t => readParam t.p (.glb .volume) != readParam t0.p (.glb .volume) && t.slots[15]? != t0.slots[15]? &&
        t.gsrc[4] != t0.gsrc[4] && t.voices[31].lsrc[1] != t0.voices[31].lsrc[1]) = true := by decide +kernel
/-- The base registers of the reset instance are legal (PatchStaysInRange, IdleVoicesKeepBaseValues). -/
theorem t0_patchOk : PatchOk t0 := by
  intro pid
  simp only [t0, State.resetFor, readParam_paramRegs]
  cases pid with
  | osc k p =>
    cases p <;>
    (refine ⟨by simp only [paramReset, paramRange]; (first | decide | (revert k; decide)), fun h => ?_⟩
     first
     | exact ⟨0, by simp only [paramReset]; decide⟩
     | exact ⟨1, by simp only [paramReset]; decide⟩
     | simp [isInteger] at h)
  | flt f p =>
    cases p <;>
    (refine ⟨by simp only [paramReset, paramRange]; decide, fun h => ?_⟩
     first
     | exact ⟨0, by simp only [paramReset]; decide⟩
     | simp [isInteger] at h)
  | env e p =>
    cases p <;> exact ⟨by simp only [paramReset, paramRange]; decide, fun h => by simp [isInteger] at h⟩
  | glb p =>
    cases p
    · exact ⟨by simp only [paramReset, paramRange]; decide, fun _ => ⟨0, by simp only [paramReset]; decide⟩⟩
    · exact ⟨by simp only [paramReset, paramRange]; decide, fun h => by simp [isInteger] at h⟩
/-- The eight invariants (ShapeStays to FilterCachesMatchKeys) hold in a state that a step leaves. -/
theorem witness_invariants :
    ShapeOk tNote ∧ PatchOk tNote ∧ SlotsOk tNote ∧ SourcesOk tNote ∧ EnvelopesOk tNote ∧ PhasesOk tNote ∧
    FadesOk tNote ∧ CachesOk tNote ∧ ∃ t, step tNote = .next t := by
  refine ⟨⟨by decide, by decide, by decide, by decide +kernel⟩, t0_patchOk, ?_, ?_, ?_, ?_, ?_, ?_, _, rfl⟩
  · intro x hx
    obtain rfl : x = slotReset := List.eq_of_mem_replicate (n := 16) hx
    exact ⟨by simp [slotReset], by simp [slotReset], by decide⟩
  · exact ⟨by decide +kernel, by decide +kernel⟩
  · unfold EnvelopesOk; decide +kernel
  · unfold PhasesOk; decide +kernel
  · unfold FadesOk; decide +kernel
  · intro v f h
    have hv : ∀ (v : Fin 32) (f : Fin 2), tNote.voices[v.val].flt[f.val].cvalid = false := by decide +kernel
    rw [hv v f] at h; cases h
/-- ResetMeetsInvariants. -/
theorem witness_admissible : Params.vectors.wf = true := by decide
/-- IdleBlockIsSilent. -/
theorem witness_idle_block :
    ticks t0 = true ∧ t0.q = [] ∧ (∃ t, step t0 = .next t) ∧
    ∀ v : Fin 32, t0.voices[v.val].stage = .idle ∧ ∀ f : Fin 2,
      F32.isFinite t0.voices[v.val].flt[f.val].ic1 = true ∧ F32.isFinite t0.voices[v.val].flt[f.val].ic2 = true :=
  ⟨rfl, rfl, ⟨_, rfl⟩, by decide +kernel⟩
/-- BlockCounterCountsTicks, VoicesRenderAlone, GuardResetsBrokenFilters, EffectiveValuesAfterBlock, IdleVoicesKeepBaseValues,
FilterKeysFollowParameters: a tick after whose drain voice 0 sounds and voice 1 is Idle. -/
theorem witness_block :
    ticks tNote = true ∧ ∃ u t, queueDrain (atTick tNote) = .next u ∧ step tNote = .next t ∧
      u.voices[0].stage ≠ .idle ∧ u.voices[1].stage = .idle ∧ effIndex (.env 2 .releaseSlope) = some 39 :=
  ⟨rfl, _, _, rfl, rfl, by decide, by decide +kernel, by decide⟩
/-- GuardResetsBrokenFilters: a tick that finds a broken filter in voice 31, and its flag and counter. -/
theorem witness_broken :
    ticks (t0With 31 (fun vc => { vc with flt := vc.flt.set 1 { fltReset with ic1 := F32.inf } })) = true ∧
    (∃ u, queueDrain (atTick (t0With 31 (fun vc => { vc with flt := vc.flt.set 1 { fltReset with ic1 := F32.inf } }))) =
      .next u) ∧
    leads (step (t0With 31 (fun vc => { vc with flt := vc.flt.set 1 { fltReset with ic1 := F32.inf } })))
      (fun t => t.cnt.nan == 1 && t.status == 0b0100#4 && t.voices[31].flt[1].ic1 == F32.zero) = true :=
  ⟨rfl, ⟨_, rfl⟩, by decide +kernel⟩
/-- VoicesDoNotInterfere: two machines whose voices 31 differ, and voice 0. -/
theorem witness_two_machines :
    ∃ s₁ s₂ : State, ticks s₁ = true ∧ ticks s₂ = true ∧ s₁.cfg = s₂.cfg ∧ s₁.p = s₂.p ∧ s₁.slots = s₂.slots ∧
      s₁.gsrc = s₂.gsrc ∧ s₁.q = s₂.q ∧ s₁.draw = s₂.draw ∧ s₁.voices[0] = s₂.voices[0] ∧
      s₁.voices[31].stage ≠ s₂.voices[31].stage ∧ (∃ t, step s₁ = .next t) ∧ ∃ t, step s₂ = .next t :=
  ⟨tNote, updateVoice 31 (fun _ => sounding) tNote, rfl, rfl, rfl, rfl, rfl, rfl, rfl, rfl, by decide +kernel,
    by decide +kernel, ⟨_, rfl⟩, _, rfl⟩
/-- FallbacksAreCounted: a tick with a missing table (the least index no table has), and one without. -/
theorem witness_fallback :
    leads (step { t0 with q := [0x011000003F800000] }) (fun t => decide (t0.cfg.nTables ≤ intParam t.p (.osc 0 .table))) =
      true ∧
    leads (step t0) (fun t => decide (∀ k : Fin 3, intParam t.p (.osc k .table) < t0.cfg.nTables)) = true := by
  decide +kernel
/-- DisabledSlotsContributeNothing: slot 0 holds something else, disabled. -/
theorem witness_disabled :
    t0.q = [] ∧ ticks t0 = true ∧
    List.Forall₂ (fun x y : Slot => x = y ∨ (x.en = false ∧ y.en = false)) t0.slots
      (⟨some .modWheel, some (.osc 0 .tune), false, F32.one⟩ :: t0.slots.tail) ∧ ∃ t, step t0 = .next t := by
  refine ⟨rfl, rfl, ?_, _, rfl⟩
  have : t0.slots = slotReset :: t0.slots.tail := rfl
  rw [this]
  exact .cons (.inr ⟨rfl, rfl⟩) (List.forall₂_same.mpr (fun _ _ => .inl rfl))
/-- StolenVoiceStartsAfterFade, ReleaseEndsWithEnvelopes, FullLevelKeepsSignal. -/
theorem witness_voices :
    ({ sounding with fade := 4, pend := true } : Voice).stage ≠ .idle ∧
    ({ sounding with fade := 4, pend := true } : Voice).fade = 3 + 1 ∧
    ({ sounding with fade := 4, pend := true } : Voice).pend = true ∧
    ({ sounding with fade := 4, pend := false } : Voice).pend = false ∧
    (voiceReset Params.vectors).stage = .idle ∧ sounding.fade ≠ 1 ∧
    (sounding.fade = 0 ∧ sounding.stage = .active) ∧ ({ sounding with stage := .releasing } : Voice).stage = .releasing ∧
    F32.isNaN F32.inf = false := by decide
/-- EnvelopeTransitions: in each timed segment the last sample but one, the last, and no samples. -/
theorem witness_segments :
    segLen slow slowEnv.attack = 4 ∧ segLen slow slowEnv.decay = 4 ∧ segLen slow slowEnv.release = 4 ∧
    segLen slow F32.zero = 0 ∧ (2 : Nat) + 1 < 4 ∧ 4 ≤ (3 : Nat) + 1 ∧
    (Env.mk .attack F32.zero F32.zero 2).stage = .attack ∧ (Env.mk .decay F32.one F32.one 3).stage = .decay ∧
    (Env.mk .sustain F32.half F32.half 0).stage = .sustain ∧ (Env.mk .release F32.half F32.half 3).stage = .release ∧
    envReset.stage = .idle := by decide +kernel
/-- AttackReachesCeiling: from the top level. -/
theorem witness_attack :
    ∃ (c : Params) (q : EnvParams) (e : Env), c.fs = 44100 ∧ q.attack = 0x3C23D70A#32 ∧ q.attackSlope = F32.one ∧
      e.stage = .attack ∧ e.t = 0 ∧ e.start = e.level ∧ inRange e.level F32.zero F32.one = true :=
  ⟨Params.vectors, { slowEnv with attack := 0x3C23D70A#32 }, ⟨.attack, F32.one, F32.one, 0⟩, rfl, rfl, rfl, rfl, rfl, rfl,
    by decide⟩
/-- AdvanceStaysInUnitInterval: the greatest phase below 1. -/
theorem witness_phase : inUnit (0x3F7FFFFF#32) = true := by decide
/-- A sounding voice with instance 0 of oscillator 0 three quarters through its cycle. -/
def lateVoice : Voice :=
  { sounding with osc := #v[⟨oscReset.ph.set 0 (0x3F400000#32), F32.zero⟩, oscReset, oscReset] }
/-- SyncResetsFollower: one instance each, and oscillator 1 with SYNC 1 and leader 0 in the sample in which that wraps. -/
theorem witness_sync :
    0 < intParam (writeParamReg (.osc 1 .sync) F32.one t0).p (.osc 0 .unison) ∧
    0 < intParam (writeParamReg (.osc 1 .sync) F32.one t0).p (.osc 1 .unison) ∧
    intParam (writeParamReg (.osc 1 .sync) F32.one t0).p (.osc 1 .sync) = 1 ∧
    intParam (writeParamReg (.osc 1 .sync) F32.one t0).p (.osc 1 .syncLeader) = 0 ∧
    (stepOscs slow (writeParamReg (.osc 1 .sync) F32.one t0).p 0 0 0 lateVoice).1.wrap = true := by decide +kernel
/-- ClampStaysInRange: bounds in order, and a value of each arm. -/
theorem witness_clamp :
    F32.le F32.zero F32.one = true ∧ F32.isNaN F32.nan = true ∧ F32.lt F32.minusOne F32.zero = true ∧
    F32.lt F32.one F32.two = true ∧
    (F32.isNaN F32.one = false ∧ F32.lt F32.one F32.zero = false ∧ F32.lt F32.one F32.one = false) := by decide
/-- MathLaws: the zero of negative sign, and a positive exponent. -/
theorem witness_math : F32.mag (0x80000000#32) = 0 ∧ F32.lt F32.zero (0x00000001#32) = true := by decide
/-- AddRounds, MulRounds, DivRounds, SqrtRounds: the largest and the smallest finite values, and a sum of zero. -/
theorem witness_finite :
    F32.isFinite (0x7F7FFFFF#32) = true ∧ F32.isFinite (0x80000001#32) = true ∧
    valueOf (0x80000001#32) ≠ 0 ∧ 0 ≤ valueOf (0x7F7FFFFF#32) ∧ valueOf F32.one + valueOf F32.minusOne = 0 := by
  refine ⟨by decide, by decide, by decide +kernel, by decide +kernel, by decide +kernel⟩

end Sys2Proof.Machine
end

section
namespace Sys2Proof.Machine

/-! ## Binary32 arithmetic: the grid of magnitudes and rounding on it

A magnitude is the 31 bits below the sign. `gridUnits` extends `F32.units` past the largest finite magnitude, so that
infinity's `0x7F800000` is the next point of the grid; rounding is first described on that unbounded grid. -/

/-- The units of `2^-149` a magnitude stands for. -/
def gridUnits (m : Nat) : Nat := if m < 2 ^ 23 then m else (2 ^ 23 + m % 2 ^ 23) * 2 ^ (m / 2 ^ 23 - 1)

theorem units_eq_gridUnits (x : F32) : F32.units x = gridUnits (F32.mag x) := rfl

/-- Below `2^24` the grid's points are the integers. -/
theorem gridUnits_of_le {m : Nat} (h : m ≤ 2 ^ 24) : gridUnits m = m := by
  unfold gridUnits
  split
  · rfl
  · obtain hlt | rfl := h.lt_or_eq
    · rw [show m / 2 ^ 23 - 1 = 0 by omega]; omega
    · rfl

/-- The points of binade `k` are the 24-bit multiples of `2^k`, and `2^24` times `2^k` begins the next binade. -/
theorem gridUnits_binade (k : Nat) {j : Nat} (hlo : 2 ^ 23 ≤ j) (hhi : j ≤ 2 ^ 24) :
    gridUnits (k * 2 ^ 23 + j) = j * 2 ^ k := by
  rw [gridUnits, if_neg (by omega)]
  obtain hlt | rfl := hhi.lt_or_eq
  · rw [show (k * 2 ^ 23 + j) / 2 ^ 23 - 1 = k by omega, show 2 ^ 23 + (k * 2 ^ 23 + j) % 2 ^ 23 = j by omega]
  · rw [show (k * 2 ^ 23 + 2 ^ 24) / 2 ^ 23 - 1 = k + 1 by omega,
      show 2 ^ 23 + (k * 2 ^ 23 + 2 ^ 24) % 2 ^ 23 = 2 ^ 23 by omega, pow_succ, pow_succ]
    ring

/-- Every magnitude lies in the subnormal range or in a binade, short of its end. -/
theorem binade_cases (m : Nat) : m < 2 ^ 23 ∨ ∃ k j, 2 ^ 23 ≤ j ∧ j < 2 ^ 24 ∧ m = k * 2 ^ 23 + j := by
  by_cases h : m < 2 ^ 23
  · exact .inl h
  · exact .inr ⟨m / 2 ^ 23 - 1, 2 ^ 23 + m % 2 ^ 23, by omega, by omega, by omega⟩

theorem gridUnits_strictMono : StrictMono gridUnits := by
  refine strictMono_nat_of_lt_succ fun m => ?_
  obtain h | ⟨k, j, hlo, hhi, rfl⟩ := binade_cases m
  · rw [gridUnits_of_le (by omega), gridUnits_of_le (by omega)]
    omega
  · rw [add_assoc, gridUnits_binade k hlo hhi.le, gridUnits_binade k (by omega) hhi]
    exact Nat.mul_lt_mul_of_pos_right (Nat.lt_succ_self j) (by positivity)

/-! ### Rounding on the grid -/

/-- `roundHalfEven` answers the floor or the next integer, whichever is nearer, an even one at a tie. -/
theorem roundHalfEven_cases {n d : Nat} (hd : 0 < d) :
    ∃ j, j * d ≤ n ∧ n < (j + 1) * d ∧
      ((F32.roundHalfEven n d = j ∧ 2 * n ≤ (j + (j + 1)) * d) ∨
        (F32.roundHalfEven n d = j + 1 ∧ (j + (j + 1)) * d ≤ 2 * n)) ∧
      (2 * n = (j + (j + 1)) * d → F32.roundHalfEven n d % 2 = 0) := by
  have hn : n / d * d + n % d = n := Nat.div_add_mod' n d
  have hrem : n % d < d := Nat.mod_lt n hd
  have hsum : (n / d + (n / d + 1)) * d = 2 * (n / d * d) + d := by ring
  have hnext : (n / d + 1) * d = n / d * d + d := by ring
  refine ⟨n / d, by omega, by omega, ?_⟩
  rw [hsum]
  unfold F32.roundHalfEven
  obtain hlt | heq | hgt := lt_trichotomy (2 * (n % d)) d
  · rw [if_pos hlt]
    exact ⟨.inl ⟨rfl, by omega⟩, by omega⟩
  · rw [if_neg heq.not_lt, if_neg heq.not_gt]
    split
    · exact ⟨.inl ⟨rfl, by omega⟩, by omega⟩
    · exact ⟨.inr ⟨rfl, by omega⟩, by omega⟩
  · rw [if_neg hgt.not_gt, if_pos hgt]
    exact ⟨.inr ⟨rfl, by omega⟩, by omega⟩

/-- The magnitude `roundMag` would answer on the grid without an end. -/
def gridRound (n d : Nat) : Nat := F32.dropBits n d * 2 ^ 23 + F32.roundHalfEven n (d * 2 ^ F32.dropBits n d)

theorem roundMag_eq (n d : Nat) : F32.roundMag n d = min 0x7F800000 (gridRound n d) := rfl

/-- The significand left after dropping `dropBits` has at most 24 bits, and exactly 24 if any are dropped. -/
theorem dropBits_bounds (n : Nat) {d : Nat} (hd : 0 < d) :
    n < 2 ^ 24 * (d * 2 ^ F32.dropBits n d) ∧
      (F32.dropBits n d ≠ 0 → 2 ^ 23 * (d * 2 ^ F32.dropBits n d) ≤ n) := by
  have hk : F32.dropBits n d = Nat.log2 (n / d) - 23 := rfl
  generalize F32.dropBits n d = k at hk
  rw [mul_left_comm, ← pow_add, mul_left_comm, ← pow_add, mul_comm d, mul_comm d]
  constructor
  · rw [← Nat.div_lt_iff_lt_mul hd]
    exact Nat.lt_log2_self.trans_le (Nat.pow_le_pow_right (by norm_num) (by omega))
  · intro hpos
    rw [← Nat.le_div_iff_mul_le hd, show 23 + k = Nat.log2 (n / d) by omega]
    exact Nat.log2_self_le fun h0 => by simp [h0] at hk; omega

/-- The grid points of the binade `dropBits` selects, its end included. -/
theorem gridUnits_dropBits {n d j : Nat} (hlo : F32.dropBits n d ≠ 0 → 2 ^ 23 ≤ j) (hhi : j ≤ 2 ^ 24) :
    gridUnits (F32.dropBits n d * 2 ^ 23 + j) * d = j * (d * 2 ^ F32.dropBits n d) := by
  generalize F32.dropBits n d = k at *
  rcases Nat.eq_zero_or_pos k with rfl | hk
  · rw [zero_mul, zero_add, gridUnits_of_le hhi, pow_zero, mul_one]
  · rw [gridUnits_binade k (hlo hk.ne') hhi]
    ring

/-- `gridRound` answers one of the two grid points around `n / d`, whichever is nearer, an even one at a tie. -/
theorem gridRound_bracket (n : Nat) {d : Nat} (hd : 0 < d) :
    ∃ lo, gridUnits lo * d ≤ n ∧ n < gridUnits (lo + 1) * d ∧
      ((gridRound n d = lo ∧ 2 * n ≤ (gridUnits lo + gridUnits (lo + 1)) * d) ∨
        (gridRound n d = lo + 1 ∧ (gridUnits lo + gridUnits (lo + 1)) * d ≤ 2 * n)) ∧
      (2 * n = (gridUnits lo + gridUnits (lo + 1)) * d → gridRound n d % 2 = 0) := by
  obtain ⟨hlt, hle⟩ := dropBits_bounds n hd
  have hD : 0 < d * 2 ^ F32.dropBits n d := by positivity
  obtain ⟨j, hj, hj', hcases, htie⟩ := roundHalfEven_cases (n := n) hD
  have hjlt : j < 2 ^ 24 := Nat.lt_of_mul_lt_mul_right (hj.trans_lt hlt)
  have hjge (hk : F32.dropBits n d ≠ 0) : 2 ^ 23 ≤ j :=
    Nat.lt_succ_iff.mp (Nat.lt_of_mul_lt_mul_right ((hle hk).trans_lt hj'))
  have hlo : gridUnits (F32.dropBits n d * 2 ^ 23 + j) * d = j * (d * 2 ^ F32.dropBits n d) :=
    gridUnits_dropBits hjge hjlt.le
  have hhi : gridUnits (F32.dropBits n d * 2 ^ 23 + j + 1) * d = (j + 1) * (d * 2 ^ F32.dropBits n d) := by
    rw [add_assoc]
    exact gridUnits_dropBits (fun hk => (hjge hk).trans (Nat.le_succ j)) hjlt
  have hmid : (gridUnits (F32.dropBits n d * 2 ^ 23 + j) + gridUnits (F32.dropBits n d * 2 ^ 23 + j + 1)) * d =
      (j + (j + 1)) * (d * 2 ^ F32.dropBits n d) := by rw [add_mul, hlo, hhi, ← add_mul]
  refine ⟨F32.dropBits n d * 2 ^ 23 + j, hlo ▸ hj, hhi ▸ hj', ?_, fun h => ?_⟩
  · rw [hmid, gridRound]
    omega
  · rw [gridRound, Nat.add_mod, htie (h.trans hmid), Nat.mul_mod]
    rfl

/-- No grid point is nearer to `n / d` than the answer: `n / d` lies on the answer's side of the midpoint to any other,
and at a midpoint the answer is the even one of the two. -/
theorem gridRound_nearest (n : Nat) {d : Nat} (hd : 0 < d) (m : Nat) :
    (m < gridRound n d → (gridUnits m + gridUnits (gridRound n d)) * d ≤ 2 * n) ∧
    (gridRound n d < m → 2 * n ≤ (gridUnits m + gridUnits (gridRound n d)) * d) ∧
    (m ≠ gridRound n d → (gridUnits m + gridUnits (gridRound n d)) * d = 2 * n → gridRound n d % 2 = 0) := by
  obtain ⟨lo, hlo, hhi, hcases, htie⟩ := gridRound_bracket n hd
  have below (h : m ≤ lo) : gridUnits m * d ≤ gridUnits lo * d :=
    Nat.mul_le_mul_right d (gridUnits_strictMono.monotone h)
  have above (h : lo + 1 ≤ m) : gridUnits (lo + 1) * d ≤ gridUnits m * d :=
    Nat.mul_le_mul_right d (gridUnits_strictMono.monotone h)
  have strictBelow (h : m < lo) : gridUnits m * d < gridUnits lo * d :=
    Nat.mul_lt_mul_of_pos_right (gridUnits_strictMono h) hd
  have strictAbove (h : lo + 1 < m) : gridUnits (lo + 1) * d < gridUnits m * d :=
    Nat.mul_lt_mul_of_pos_right (gridUnits_strictMono h) hd
  simp only [add_mul] at *
  obtain ⟨hR, h⟩ | ⟨hR, h⟩ := hcases <;> rw [hR] at htie ⊢
  · refine ⟨fun hm => ?_, fun hm => ?_, fun hm he => htie ?_⟩
    · have := below hm.le; omega
    · have := above hm; omega
    · obtain hm | hm := Nat.lt_or_gt_of_ne hm
      · have := strictBelow hm; omega
      · have := above hm; omega
  · refine ⟨fun hm => ?_, fun hm => ?_, fun hm he => htie ?_⟩
    · have := below (Nat.lt_succ_iff.mp hm); omega
    · have := above hm.le; omega
    · obtain hm | hm := Nat.lt_or_gt_of_ne hm
      · have := below (Nat.lt_succ_iff.mp hm); omega
      · have := strictAbove hm; omega

end Sys2Proof.Machine
end

section
namespace Sys2Proof.Machine

/-! ## Binary32 arithmetic: values, and rounding as rationals -/

/-! ### Sign and magnitude -/

/-- A rational with a sign bit. -/
def signed (neg : Bool) (q : ℚ) : ℚ := if neg then -q else q

@[simp] theorem signed_false (q : ℚ) : signed false q = q := rfl
@[simp] theorem signed_true (q : ℚ) : signed true q = -q := rfl

@[simp] theorem abs_signed (s : Bool) (q : ℚ) : |signed s q| = |q| := by cases s <;> simp

theorem signed_sub (s : Bool) (a b : ℚ) : signed s a - signed s b = signed s (a - b) := by
  cases s
  · rfl
  · simp only [signed_true]; ring

theorem signed_mul_signed (s t : Bool) (a b : ℚ) : signed s a * signed t b = signed (s != t) (a * b) := by
  cases s <;> cases t <;> simp

theorem signed_div_signed (s t : Bool) (a b : ℚ) : signed s a / signed t b = signed (s != t) (a / b) := by
  cases s <;> cases t <;> simp [neg_div, div_neg]

/-- The rational a magnitude stands for. -/
def gridValue (m : Nat) : ℚ := gridUnits m / 2 ^ 149

@[simp] theorem gridValue_zero : gridValue 0 = 0 := by simp [gridValue, gridUnits]

theorem gridValue_nonneg (m : Nat) : 0 ≤ gridValue m := by unfold gridValue; positivity

theorem gridValue_strictMono : StrictMono gridValue := fun a b h =>
  div_lt_div_of_pos_right (by exact_mod_cast gridUnits_strictMono h) (by positivity)

/-- A value of its sign and its magnitude's grid point. -/
theorem valueOf_eq (x : F32) : valueOf x = signed (F32.sign x) (gridValue (F32.mag x)) := by
  rw [valueOf, F32.toUnits, units_eq_gridUnits, gridValue]
  cases F32.sign x <;> simp [neg_div]

theorem abs_valueOf (x : F32) : |valueOf x| = gridValue (F32.mag x) := by
  rw [valueOf_eq, abs_signed, abs_of_nonneg (gridValue_nonneg _)]

section
variable {m : Nat}

theorem toNat_ofMag (neg : Bool) (h : m < 2 ^ 31) : (F32.ofMag neg m).toNat = m + if neg then 2 ^ 31 else 0 := by
  rw [F32.ofMag, BitVec.toNat_ofNat, Nat.mod_eq_of_lt]
  split <;> omega

theorem mag_ofMag (neg : Bool) (h : m < 2 ^ 31) : F32.mag (F32.ofMag neg m) = m := by
  rw [F32.mag, toNat_ofMag neg h]
  split <;> omega

theorem sign_ofMag (neg : Bool) (h : m < 2 ^ 31) : F32.sign (F32.ofMag neg m) = neg := by
  rw [F32.sign, toNat_ofMag neg h]
  cases neg
  · exact decide_eq_false (by simpa using h)
  · exact decide_eq_true (by simp)

theorem toNat_ofMag_mod_two (neg : Bool) (h : m < 2 ^ 31) : (F32.ofMag neg m).toNat % 2 = m % 2 := by
  rw [toNat_ofMag neg h]
  split <;> omega

end

theorem mag_lt (x : F32) : F32.mag x < 2 ^ 31 := Nat.mod_lt _ (by norm_num)

/-- A value is put together again from its sign and magnitude. -/
theorem ofMag_sign_mag (x : F32) : F32.ofMag (F32.sign x) (F32.mag x) = x := by
  have hx : x.toNat < 2 ^ 32 := x.isLt
  refine BitVec.eq_of_toNat_eq ?_
  rw [toNat_ofMag _ (mag_lt x), F32.sign, F32.mag]
  simp only [decide_eq_true_eq]
  split <;> omega

/-! ### Where rounding overflows -/

theorem gridUnits_max : gridUnits 0x7F7FFFFF = (2 ^ 24 - 1) * 2 ^ 253 :=
  gridUnits_binade 253 (j := 2 ^ 24 - 1) (by norm_num) (by norm_num)

theorem gridUnits_inf : gridUnits 0x7F800000 = 2 ^ 24 * 2 ^ 253 :=
  gridUnits_binade 253 (j := 2 ^ 24) (by norm_num) (by norm_num)

/-- The answer passes the largest finite magnitude from half a last place above it on; that midpoint itself rounds up,
since the largest finite magnitude is odd. -/
theorem inf_le_gridRound_iff (n : Nat) {d : Nat} (hd : 0 < d) :
    0x7F800000 ≤ gridRound n d ↔ (2 ^ 25 - 1) * 2 ^ 252 * d ≤ n := by
  have hmid : (gridUnits 0x7F7FFFFF + gridUnits 0x7F800000) * d = 2 * ((2 ^ 25 - 1) * 2 ^ 252 * d) := by
    rw [gridUnits_max, gridUnits_inf]; ring
  obtain ⟨hmax, -, -⟩ := gridRound_nearest n hd 0x7F7FFFFF
  obtain ⟨-, hinf, htie⟩ := gridRound_nearest n hd 0x7F800000
  constructor
  · intro h
    have hR : gridUnits 0x7F800000 ≤ gridUnits (gridRound n d) := gridUnits_strictMono.monotone h
    have := hmax (by omega)
    have := Nat.mul_le_mul_right d (Nat.add_le_add_left hR (gridUnits 0x7F7FFFFF))
    omega
  · intro h
    by_contra hlt
    have hR : gridUnits (gridRound n d) ≤ gridUnits 0x7F7FFFFF := gridUnits_strictMono.monotone (by omega)
    have hle := Nat.mul_le_mul_right d (Nat.add_le_add_left hR (gridUnits 0x7F800000))
    have hge := hinf (by omega)
    have heven := htie (by omega) (by rw [add_comm (gridUnits _)] at hmid; omega)
    have hR' : gridUnits (gridRound n d) < gridUnits 0x7F7FFFFF := gridUnits_strictMono (by omega)
    have := Nat.mul_lt_mul_of_pos_right (Nat.add_lt_add_left hR' (gridUnits 0x7F800000)) hd
    rw [add_comm (gridUnits _)] at hmid
    omega

/-! ### The rational statement -/

/-- The greater of two numbers is at least as near to a point that is not below their midpoint. -/
theorem abs_sub_le_abs_sub_of_midpoint_le {a b q : ℚ} (h : a ≤ b) (hm : a + b ≤ 2 * q) : |b - q| ≤ |a - q| :=
  sq_le_sq.mp (by nlinarith)

/-- The lesser of two numbers is at least as near to a point that is not above their midpoint. -/
theorem abs_sub_le_abs_sub_of_le_midpoint {a b q : ℚ} (h : a ≤ b) (hm : 2 * q ≤ a + b) : |a - q| ≤ |b - q| :=
  sq_le_sq.mp (by nlinarith)

/-- Of two numbers, a point equally far from both is the midpoint. -/
theorem add_eq_two_mul_of_abs_sub_eq {a b q : ℚ} (hne : a ≠ b) (h : |a - q| = |b - q|) : a + b = 2 * q := by
  obtain h | h := abs_eq_abs.mp h
  · exact absurd (by linarith) hne
  · linarith

/-- `gridRound_nearest` in rationals: no grid value is nearer, and a tie goes to an even magnitude. -/
theorem gridValue_nearest (n : Nat) {d : Nat} (hd : 0 < d) (m : Nat) :
    |gridValue (gridRound n d) - n / d / 2 ^ 149| ≤ |gridValue m - n / d / 2 ^ 149| ∧
    (m ≠ gridRound n d → |gridValue (gridRound n d) - n / d / 2 ^ 149| = |gridValue m - n / d / 2 ^ 149| →
      gridRound n d % 2 = 0) := by
  obtain ⟨below, above, tie⟩ := gridRound_nearest n hd m
  have hd' : (0 : ℚ) < d := by exact_mod_cast hd
  have scale : 2 * ((n : ℚ) / d / 2 ^ 149) = ((2 * n : ℕ) : ℚ) / d / 2 ^ 149 := by push_cast; ring
  have sum : gridValue m + gridValue (gridRound n d) =
      (((gridUnits m + gridUnits (gridRound n d)) * d : ℕ) : ℚ) / d / 2 ^ 149 := by
    unfold gridValue; push_cast; field_simp
  refine ⟨?_, fun hm h => tie hm ?_⟩
  · obtain h | h | h := lt_trichotomy m (gridRound n d)
    · refine abs_sub_le_abs_sub_of_midpoint_le (gridValue_strictMono h).le ?_
      rw [sum, scale]
      gcongr ?_ / _ / _
      exact_mod_cast below h
    · rw [h]
    · refine abs_sub_le_abs_sub_of_le_midpoint (gridValue_strictMono h).le ?_
      rw [add_comm, sum, scale]
      gcongr ?_ / _ / _
      exact_mod_cast above h
  · have hmid := add_eq_two_mul_of_abs_sub_eq (gridValue_strictMono.injective.ne hm) h.symm
    rw [sum, scale, div_left_inj' (by positivity), div_left_inj' hd'.ne'] at hmid
    exact_mod_cast hmid

theorem sign_ofRatio (neg : Bool) (n d : Nat) : F32.sign (F32.ofRatio neg n d) = neg :=
  sign_ofMag neg (by rw [roundMag_eq]; omega)

theorem mag_ofRatio (neg : Bool) (n d : Nat) :
    F32.mag (F32.ofRatio neg n d) = min 0x7F800000 (gridRound n d) :=
  mag_ofMag neg (by rw [roundMag_eq]; omega)

/-- A number as near to `x` as `|w|` is as near to `±x`, with that sign, as `w`. -/
theorem abs_signed_sub_le {u x w : ℚ} (s : Bool) (hx : 0 ≤ x) (h : |u - x| ≤ |(|w|) - x|) :
    |signed s u - signed s x| ≤ |w - signed s x| := by
  rw [signed_sub, abs_signed]
  refine h.trans ?_
  have := abs_abs_sub_abs_le w (signed s x)
  rwa [abs_signed, abs_of_nonneg hx] at this

/-- `±u` and another number that are equally near to `±x` tie in magnitude too, unless `x` is zero. -/
theorem abs_tie_of_signed_tie {u x w : ℚ} {s : Bool} (hu : 0 ≤ u) (hx : 0 ≤ x) (h : |u - x| ≤ |(|w|) - x|)
    (hne : w ≠ signed s u) (htie : |signed s u - signed s x| = |w - signed s x|) :
    x = 0 ∨ (|w| ≠ u ∧ |u - x| = |(|w|) - x|) := by
  by_cases hw : |w| = u
  · refine .inl ?_
    have hw' : w = -signed s u := by
      rw [← abs_of_nonneg hu, ← abs_signed s u] at hw
      exact (abs_eq_abs.mp hw).resolve_left hne
    have := add_eq_two_mul_of_abs_sub_eq hne.symm htie
    rw [← abs_of_nonneg hx, ← abs_signed s x, abs_eq_zero]
    linarith
  · refine .inr ⟨hw, le_antisymm h ?_⟩
    rw [signed_sub, abs_signed] at htie
    have := abs_abs_sub_abs_le w (signed s x)
    rwa [abs_signed, abs_of_nonneg hx, ← htie] at this

/-- The condition of `RoundsTo` for an infinite result, in units. -/
theorem overflow_iff (neg : Bool) (n : Nat) {d : Nat} (hd : 0 < d) :
    (2 : ℚ) ^ 128 - 2 ^ 103 ≤ |signed neg (n / d / 2 ^ 149)| ↔ 0x7F800000 ≤ gridRound n d := by
  have hd' : (0 : ℚ) < d := by exact_mod_cast hd
  rw [inf_le_gridRound_iff n hd, abs_signed, abs_of_nonneg (by positivity), le_div_iff₀ (by positivity),
    le_div_iff₀ hd', show ((2 : ℚ) ^ 128 - 2 ^ 103) * 2 ^ 149 = (((2 ^ 25 - 1) * 2 ^ 252 : ℕ) : ℚ) by norm_num]
  exact_mod_cast Iff.rfl

/-- A result of magnitude 0 for an exact zero. -/
theorem gridRound_of_value_eq_zero {n d : Nat} (hd : 0 < d) (h : (n : ℚ) / d / 2 ^ 149 = 0) : gridRound n d = 0 := by
  have hle := (gridValue_nearest n hd 0).1
  rw [h, sub_zero, sub_zero, abs_of_nonneg (gridValue_nonneg _), abs_of_nonneg (gridValue_nonneg _)] at hle
  exact Nat.le_zero.mp (gridValue_strictMono.le_iff_le.mp hle)

/-- An answer within the finite magnitudes is the nearest of all finite values, an even one at a tie. -/
theorem ofRatio_nearest (neg : Bool) (n : Nat) {d : Nat} (hd : 0 < d) (hfin : gridRound n d < 0x7F800000) (c : F32) :
    |valueOf (F32.ofRatio neg n d) - signed neg (n / d / 2 ^ 149)| ≤ |valueOf c - signed neg (n / d / 2 ^ 149)| ∧
    (valueOf c ≠ valueOf (F32.ofRatio neg n d) →
      |valueOf (F32.ofRatio neg n d) - signed neg (n / d / 2 ^ 149)| =
        |valueOf c - signed neg (n / d / 2 ^ 149)| → (F32.ofRatio neg n d).toNat % 2 = 0) := by
  have hx : (0 : ℚ) ≤ n / d / 2 ^ 149 := by positivity
  have hmag : F32.mag (F32.ofRatio neg n d) = gridRound n d := by rw [mag_ofRatio]; omega
  have heven : (F32.ofRatio neg n d).toNat % 2 = gridRound n d % 2 := by
    rw [F32.ofRatio, roundMag_eq, toNat_ofMag_mod_two neg (by omega)]
    congr 1; omega
  obtain ⟨hle, htie⟩ := gridValue_nearest n hd (F32.mag c)
  rw [valueOf_eq (F32.ofRatio neg n d), sign_ofRatio, hmag, heven]
  rw [← abs_valueOf c] at hle htie
  refine ⟨abs_signed_sub_le neg hx hle, fun hne heq => ?_⟩
  obtain h0 | ⟨hw, heq⟩ := abs_tie_of_signed_tie (gridValue_nonneg _) hx hle hne heq
  · rw [gridRound_of_value_eq_zero hd h0]
  · refine htie (fun hm => hw ?_) heq
    rw [abs_valueOf, hm]

/-- Rounding to a signed binary32 value, of any exact rational given as a ratio of units (R9). -/
theorem ofRatio_roundsTo (neg : Bool) (n : Nat) {d : Nat} (hd : 0 < d) :
    RoundsTo (signed neg (n / d / 2 ^ 149)) (F32.ofRatio neg n d) := by
  have hover := overflow_iff neg n hd
  unfold RoundsTo
  split
  case isTrue h =>
    have hx : (0 : ℚ) < n / d / 2 ^ 149 := by
      rw [abs_signed, abs_of_nonneg (by positivity)] at h
      exact lt_of_lt_of_le (by norm_num) h
    refine ⟨decide_eq_true ?_, ?_⟩
    · rw [mag_ofRatio]; exact min_eq_left (hover.mp h)
    · rw [sign_ofRatio]
      cases neg
      · exact (decide_eq_false (not_lt.mpr hx.le)).symm
      · exact (decide_eq_true (neg_lt_zero.mpr hx)).symm
  case isFalse h =>
    have hfin : gridRound n d < 0x7F800000 := not_le.mp fun hle => h (hover.mpr hle)
    refine ⟨decide_eq_true ?_, fun c _ => ofRatio_nearest neg n hd hfin c⟩
    rw [mag_ofRatio]; omega

end Sys2Proof.Machine
end

section
namespace Sys2Proof.Machine

/-! ## Binary32 arithmetic: the operations -/

/-! ### Addition, multiplication and division (R9) -/

/-- A finite value is neither a NaN nor an infinity. -/
theorem not_isNaN_of_isFinite {x : F32} (h : F32.isFinite x = true) : F32.isNaN x = false :=
  decide_eq_false (not_lt.mpr (of_decide_eq_true h).le)

theorem not_isInf_of_isFinite {x : F32} (h : F32.isFinite x = true) : F32.isInf x = false :=
  decide_eq_false (of_decide_eq_true h).ne

theorem add_of_finite {a b : F32} (ha : F32.isFinite a = true) (hb : F32.isFinite b = true) :
    F32.add a b = if F32.toUnits a + F32.toUnits b = 0 then F32.ofMag (F32.sign a && F32.sign b) 0
      else F32.ofUnits (F32.toUnits a + F32.toUnits b) := by
  simp [F32.add, not_isNaN_of_isFinite, not_isInf_of_isFinite, ha, hb]

theorem mul_of_finite {a b : F32} (ha : F32.isFinite a = true) (hb : F32.isFinite b = true) :
    F32.mul a b = F32.ofRatio (F32.sign a != F32.sign b) (F32.units a * F32.units b) (2 ^ 149) := by
  simp [F32.mul, not_isNaN_of_isFinite, not_isInf_of_isFinite, ha, hb]

theorem div_of_finite {a b : F32} (ha : F32.isFinite a = true) (hb : F32.isFinite b = true) (h0 : F32.mag b ≠ 0) :
    F32.div a b = F32.ofRatio (F32.sign a != F32.sign b) (F32.units a * 2 ^ 149) (F32.units b) := by
  simp [F32.div, not_isNaN_of_isFinite, not_isInf_of_isFinite, ha, hb, h0]

/-- A value of magnitude zero, of either sign, is the rounding of zero. -/
theorem zero_roundsTo (neg : Bool) : RoundsTo 0 (F32.ofMag neg 0) := by
  have h := ofRatio_roundsTo neg 0 Nat.one_pos
  have hzero : F32.ofRatio neg 0 1 = F32.ofMag neg 0 := by rw [F32.ofRatio]; congr 1
  rw [hzero] at h
  simpa [signed] using h

/-- An integer number of units is rounded to nearest. -/
theorem ofUnits_roundsTo (z : ℤ) : RoundsTo (z / 2 ^ 149) (F32.ofUnits z) := by
  have h := ofRatio_roundsTo (decide (z < 0)) z.natAbs Nat.one_pos
  have hz : signed (decide (z < 0)) ((z.natAbs : ℚ) / (1 : ℕ) / 2 ^ 149) = z / 2 ^ 149 := by
    rw [Nat.cast_natAbs, Nat.cast_one, div_one]
    by_cases hneg : z < 0
    · simp [hneg, abs_of_neg hneg, neg_div]
    · simp [hneg, abs_of_nonneg (not_lt.mp hneg)]
  rwa [hz] at h

theorem valueOf_add_valueOf (a b : F32) :
    valueOf a + valueOf b = ((F32.toUnits a + F32.toUnits b : ℤ) : ℚ) / 2 ^ 149 := by
  rw [valueOf, valueOf, ← add_div]; push_cast; rfl

/-- Settles O56: a zero sum has its own arm, any other is an integer number of units. -/
theorem addRounds : Obligations.AddRounds := fun a b ha hb => by
  rw [valueOf_add_valueOf, add_of_finite ha hb]
  split
  case isTrue h =>
    rw [h, Int.cast_zero, zero_div]
    exact ⟨zero_roundsTo _, fun _ => sign_ofMag _ (by norm_num)⟩
  case isFalse h =>
    refine ⟨ofUnits_roundsTo _, fun h0 => absurd ?_ h⟩
    exact Int.cast_eq_zero.mp ((div_eq_zero_iff.mp h0).resolve_right (by positivity))

/-- Settles O57: the product of two numbers of units is a number of `2^-149` of units. -/
theorem mulRounds : Obligations.MulRounds := fun a b ha hb => by
  rw [mul_of_finite ha hb]
  refine ⟨?_, sign_ofRatio _ _ _⟩
  have hvalue : valueOf a * valueOf b = signed (F32.sign a != F32.sign b)
      (((F32.units a * F32.units b : ℕ) : ℚ) / (2 ^ 149 : ℕ) / 2 ^ 149) := by
    rw [valueOf_eq, valueOf_eq, signed_mul_signed, gridValue, gridValue, units_eq_gridUnits, units_eq_gridUnits]
    congr 1; push_cast; ring
  rw [hvalue]
  exact ofRatio_roundsTo _ _ (by positivity)

theorem mag_ne_zero_of_valueOf_ne_zero {x : F32} (h : valueOf x ≠ 0) : F32.mag x ≠ 0 := fun h0 => by
  refine h ?_
  rw [← abs_eq_zero, abs_valueOf, h0, gridValue_zero]

theorem units_pos {x : F32} (h : F32.mag x ≠ 0) : 0 < F32.units x :=
  gridUnits_strictMono (Nat.pos_of_ne_zero h)

/-- Settles O58: the quotient of two numbers of units, in units. -/
theorem divRounds : Obligations.DivRounds := fun a b ha hb h0 => by
  have hmag := mag_ne_zero_of_valueOf_ne_zero h0
  rw [div_of_finite ha hb hmag]
  refine ⟨?_, sign_ofRatio _ _ _⟩
  have hvalue : valueOf a / valueOf b = signed (F32.sign a != F32.sign b)
      (((F32.units a * 2 ^ 149 : ℕ) : ℚ) / F32.units b / 2 ^ 149) := by
    rw [valueOf_eq, valueOf_eq, signed_div_signed, gridValue, gridValue, units_eq_gridUnits, units_eq_gridUnits]
    congr 1; push_cast; ring
  rw [hvalue]
  exact ofRatio_roundsTo _ _ (units_pos hmag)

/-! ### The square root (R9) -/

/-- The search keeps the root between the part found and that part with every bit still to decide set. -/
theorem isqrtFrom_spec (n k root : Nat) (hlo : root * root ≤ n) (hhi : n < (root + 2 ^ k) * (root + 2 ^ k)) :
    F32.isqrtFrom n k root * F32.isqrtFrom n k root ≤ n ∧
      n < (F32.isqrtFrom n k root + 1) * (F32.isqrtFrom n k root + 1) := by
  induction k generalizing root with
  | zero => exact ⟨hlo, hhi⟩
  | succ k ih =>
    rw [F32.isqrtFrom]
    have hpow : root + 2 ^ (k + 1) = root + 2 ^ k + 2 ^ k := by rw [pow_succ]; omega
    rw [hpow] at hhi
    split
    case isTrue h => exact ih _ h hhi
    case isFalse h => exact ih _ hlo (not_le.mp h)

theorem isqrt_spec (n : Nat) : F32.isqrt n * F32.isqrt n ≤ n ∧ n < (F32.isqrt n + 1) * (F32.isqrt n + 1) := by
  refine isqrtFrom_spec n _ 0 (Nat.zero_le n) ?_
  rw [zero_add, ← pow_add]
  exact Nat.lt_log2_self.trans_le (Nat.pow_le_pow_right (by norm_num) (by omega))

/-- Twice the integer root of `n`, and one more if the root is not exact: what `sqrt` rounds, in half units. -/
def doubledRoot (n : Nat) : Nat := 2 * F32.isqrt n + if F32.isqrt n * F32.isqrt n = n then 0 else 1

/-- Against even numbers, the doubled root decides as twice the exact root does. -/
theorem doubledRoot_spec (n s : Nat) :
    (2 * s ≤ doubledRoot n → (2 * s) ^ 2 ≤ 4 * n) ∧ (doubledRoot n ≤ 2 * s → 4 * n ≤ (2 * s) ^ 2) := by
  obtain ⟨hlo, hhi⟩ := isqrt_spec n
  rw [show (2 * s) ^ 2 = 4 * (s * s) by ring]
  refine ⟨fun h => Nat.mul_le_mul_left 4 ?_, fun h => Nat.mul_le_mul_left 4 ?_⟩
  · have hs : s ≤ F32.isqrt n := by unfold doubledRoot at h; split at h <;> omega
    exact (Nat.mul_le_mul hs hs).trans hlo
  · unfold doubledRoot at h
    split at h
    case isTrue heq =>
      have hs : F32.isqrt n ≤ s := by omega
      exact heq ▸ Nat.mul_le_mul hs hs
    case isFalse =>
      have hs : F32.isqrt n + 1 ≤ s := by omega
      exact hhi.le.trans (Nat.mul_le_mul hs hs)

/-- From `2^24` on, the grid's points are even. -/
theorem gridUnits_even {m : Nat} (h : 2 ^ 24 ≤ m) : gridUnits m % 2 = 0 := by
  obtain h' | ⟨k, j, hlo, hhi, rfl⟩ := binade_cases m
  · omega
  · rw [gridUnits_binade k hlo hhi.le, ← Nat.succ_pred_eq_of_pos (n := k) (by omega), pow_succ, ← mul_assoc]
    exact Nat.mul_mod_left _ 2

section
variable {n : Nat} (hn : 2 ^ 149 ≤ n)
include hn

/-- The root of any positive value is far above the subnormal range. -/
theorem lt_gridRound_doubledRoot : 2 ^ 24 < gridRound (doubledRoot n) 2 := by
  by_contra h
  obtain ⟨-, habove, -⟩ := gridRound_nearest (doubledRoot n) Nat.two_pos (2 ^ 24 + 1)
  have hR : gridUnits (gridRound (doubledRoot n) 2) ≤ gridUnits (2 ^ 24 + 1) :=
    gridUnits_strictMono.monotone (by omega)
  have hnext : gridUnits (2 ^ 24 + 1) = (2 ^ 23 + 1) * 2 :=
    gridUnits_binade 1 (j := 2 ^ 23 + 1) (by norm_num) (by norm_num)
  have hle : doubledRoot n ≤ 2 * 2 ^ 25 := by have := habove (by omega); omega
  have := (doubledRoot_spec n (2 ^ 25)).2 hle
  omega

/-- The rounded root lies, to every other grid point, on the exact root's side of the midpoint. -/
theorem gridRound_doubledRoot_nearest (m : Nat) :
    (m < gridRound (doubledRoot n) 2 → (gridUnits m + gridUnits (gridRound (doubledRoot n) 2)) ^ 2 ≤ 4 * n) ∧
    (gridRound (doubledRoot n) 2 < m → 4 * n ≤ (gridUnits m + gridUnits (gridRound (doubledRoot n) 2)) ^ 2) := by
  have hR := lt_gridRound_doubledRoot hn
  have hnear := gridRound_nearest (doubledRoot n) Nat.two_pos
  generalize gridRound (doubledRoot n) 2 = R at *
  have heven (m : Nat) (hm : 2 ^ 24 ≤ m) : ∃ s, gridUnits m + gridUnits R = 2 * s := by
    have := gridUnits_even hm
    have := gridUnits_even hR.le
    exact ⟨(gridUnits m + gridUnits R) / 2, by omega⟩
  constructor
  · intro hm
    obtain ⟨s, hs⟩ := heven (R - 1) (by omega)
    have hle : gridUnits m ≤ gridUnits (R - 1) := gridUnits_strictMono.monotone (by omega)
    have hmid := (hnear (R - 1)).1 (by omega)
    calc (gridUnits m + gridUnits R) ^ 2 ≤ (2 * s) ^ 2 := Nat.pow_le_pow_left (by omega) 2
      _ ≤ 4 * n := (doubledRoot_spec n s).1 (by omega)
  · intro hm
    obtain ⟨s, hs⟩ := heven (R + 1) (by omega)
    have hle : gridUnits (R + 1) ≤ gridUnits m := gridUnits_strictMono.monotone hm
    have hmid := (hnear (R + 1)).2.1 (by omega)
    calc 4 * n ≤ (2 * s) ^ 2 := (doubledRoot_spec n s).2 (by omega)
      _ ≤ (gridUnits m + gridUnits R) ^ 2 := Nat.pow_le_pow_left (by omega) 2

end

/-- The root of a finite value is finite. -/
theorem gridRound_doubledRoot_lt {n : Nat} (hn : n < 2 ^ 24 * 2 ^ 253 * 2 ^ 149) :
    gridRound (doubledRoot n) 2 < 0x7F800000 := by
  by_contra h
  have hle := (inf_le_gridRound_iff (doubledRoot n) Nat.two_pos).mp (not_lt.mp h)
  have := (doubledRoot_spec n (2 ^ 252)).1 (by omega)
  omega

theorem sqrt_of_pos {x : F32} (h : F32.isFinite x = true) (hmag : F32.mag x ≠ 0) (hsign : F32.sign x = false) :
    F32.sqrt x = F32.ofRatio false (doubledRoot (F32.units x * 2 ^ 149)) 2 := by
  rw [F32.sqrt, not_isNaN_of_isFinite h, not_isInf_of_isFinite h, hsign, if_neg hmag]
  rfl

theorem sqrt_of_mag_zero {x : F32} (h : F32.mag x = 0) : F32.sqrt x = x := by
  rw [F32.sqrt, F32.isNaN, h]; rfl

/-- A zero is its own root. -/
theorem rootRoundsTo_of_valueOf_eq_zero {x : F32} (h : F32.isFinite x = true) (h0 : valueOf x = 0) :
    RootRoundsTo x x := by
  refine ⟨h, h0.ge, fun c _ hc => ?_⟩
  rw [h0]
  exact ⟨fun _ => by rw [mul_zero]; positivity, fun hlt => absurd hlt (not_lt.mpr hc)⟩

theorem valueOf_of_nonneg {x : F32} (h : 0 ≤ valueOf x) : valueOf x = gridValue (F32.mag x) := by
  rw [← abs_valueOf, abs_of_nonneg h]

/-- A value that is not negative and not zero has no sign bit. -/
theorem sign_of_nonneg {x : F32} (h : 0 ≤ valueOf x) (hmag : F32.mag x ≠ 0) : F32.sign x = false := by
  by_contra hs
  have hpos : gridValue 0 < gridValue (F32.mag x) := gridValue_strictMono (Nat.pos_of_ne_zero hmag)
  rw [valueOf_eq, Bool.eq_true_of_not_eq_false hs, signed_true] at h
  have := gridValue_nonneg 0
  linarith

/-- The comparisons of `RootRoundsTo`, in units. -/
theorem gridValue_root_scale (u a b : Nat) :
    4 * (u / 2 ^ 149 : ℚ) = ((4 * (u * 2 ^ 149) : ℕ) : ℚ) / 2 ^ 149 / 2 ^ 149 ∧
    (gridValue a + gridValue b) ^ 2 = (((gridUnits b + gridUnits a) ^ 2 : ℕ) : ℚ) / 2 ^ 149 / 2 ^ 149 := by
  unfold gridValue
  constructor <;> push_cast <;> ring

/-- Midpoints of the grid near the root are whole numbers of units, so that the doubled integer root lies on the side of
each on which the exact root lies. -/
theorem sqrt_rootRoundsTo_of_pos {x : F32} (hfin : F32.isFinite x = true) (hx : 0 ≤ valueOf x)
    (hmag : F32.mag x ≠ 0) : RootRoundsTo x (F32.sqrt x) := by
  have hpos : 0 < F32.units x := units_pos hmag
  have hmax : F32.units x < 2 ^ 24 * 2 ^ 253 := gridUnits_inf ▸ gridUnits_strictMono (of_decide_eq_true hfin)
  have hR := gridRound_doubledRoot_lt (n := F32.units x * 2 ^ 149) (by omega)
  have hnear := gridRound_doubledRoot_nearest (n := F32.units x * 2 ^ 149) (by omega)
  rw [sqrt_of_pos hfin hmag (sign_of_nonneg hx hmag)]
  generalize doubledRoot (F32.units x * 2 ^ 149) = N at hR hnear
  have hmagr : F32.mag (F32.ofRatio false N 2) = gridRound N 2 := by rw [mag_ofRatio]; omega
  have hvalue : valueOf (F32.ofRatio false N 2) = gridValue (gridRound N 2) := by
    rw [valueOf_eq, sign_ofRatio, signed_false, hmagr]
  rw [RootRoundsTo, hvalue, valueOf_of_nonneg hx]
  refine ⟨decide_eq_true (hmagr ▸ hR), gridValue_nonneg _, fun c _ hc => ?_⟩
  obtain ⟨below, above⟩ := hnear (F32.mag c)
  obtain ⟨hn, hsq⟩ := gridValue_root_scale (F32.units x) (gridRound N 2) (F32.mag c)
  rw [valueOf_of_nonneg hc, gridValue_strictMono.lt_iff_lt, gridValue_strictMono.lt_iff_lt, hsq,
    gridValue, ← units_eq_gridUnits, hn]
  refine ⟨fun h => ?_, fun h => ?_⟩ <;> gcongr ?_ / _ / _
  · exact_mod_cast above h
  · exact_mod_cast below h

/-- Settles O59: a zero is its own root, and a positive value has the rounded doubled integer root. -/
theorem sqrtRounds : Obligations.SqrtRounds := fun x hfin hx => by
  by_cases hmag : F32.mag x = 0
  · rw [sqrt_of_mag_zero hmag]
    refine rootRoundsTo_of_valueOf_eq_zero hfin ?_
    rw [valueOf_of_nonneg hx, hmag, gridValue_zero]
  · exact sqrt_rootRoundsTo_of_pos hfin hx hmag

end Sys2Proof.Machine
end

section
namespace Sys2Proof.Machine

/-! ## One sample of a voice (R89 to R97) -/

/-- Routing in either mode: filter 1 takes the filtered bus or filter 0's output (R92). -/
theorem route_eq (p : Vector F32 59) (o : Fin 3 → F32) (flt : Vector Flt 2) {x1 y0 : F32}
    (hy0 : y0 = fltOut (intParam p (.flt 0 .mode)) (busSum p false o) flt[0])
    (hx1 : x1 = if intParam p (.glb .routing) = 0 then busSum p false o else y0) :
    route p (o 0) (o 1) (o 2) flt =
      (#v[fltNext (busSum p false o) flt[0], fltNext x1 flt[1]],
        F32.add
          (if intParam p (.glb .routing) = 0 then F32.add y0 (fltOut (intParam p (.flt 1 .mode)) x1 flt[1])
            else fltOut (intParam p (.flt 1 .mode)) x1 flt[1])
          (busSum p true o)) := by
  subst hy0 hx1
  by_cases h : intParam p (.glb .routing) = 0
  · rw [route_parallel p o flt h, if_pos h, if_pos h]
  · rw [route_serial p o flt h, if_neg h, if_neg h]

/-- The output of oscillator `k` of a voice at its current phases. -/
def oscOutputs (c : Params) (p : Vector F32 59) (vc : Voice) (k : Fin 3) : F32 :=
  oscOut c (oscParamsOf p vc k) vc.osc[k.val]

/-- A stepped voice's filters are those of the routing of its oscillators' outputs. -/
theorem stepped_flt_eq (c : Params) (p : Vector F32 59) (d v n : Nat) (vc : Voice) :
    (stepped c p d v n vc).flt =
      (route p (oscOutputs c p vc 0) (oscOutputs c p vc 1) (oscOutputs c p vc 2) vc.flt).1 := by
  obtain ⟨h0, h1, h2⟩ := stepOscs_out c p d v n vc
  rw [stepped, h0, h1, h2]
  rfl

/-- A stepped oscillator's last output is its output, up to the payload of a NaN (log entry 4). -/
theorem stepped_last (c : Params) (p : Vector F32 59) (d v n : Nat) (vc : Voice) (k : Fin 3) :
    sameOrNan (stepped c p d v n vc).osc[k.val].last (oscOutputs c p vc k) := by
  match k with
  | 0 => exact settle_sameOrNan _ _ _
  | 1 => exact settle_sameOrNan _ _ _
  | 2 => exact settle_sameOrNan _ _ _

/-- A stepped voice's envelopes are stepped one by one (R121). -/
theorem stepped_env (c : Params) (p : Vector F32 59) (d v n : Nat) (vc : Voice) (e : Fin 3) :
    (stepped c p d v n vc).env[e.val] = envStep c (envParamsOf p vc e) vc.env[e.val] := by
  match e with
  | 0 => rfl
  | 1 => rfl
  | 2 => rfl

/-- A sounding voice's output is the routed signal through the amplitude stage (R89, R93). -/
theorem voiceSample_out {c : Params} {p : Vector F32 59} {d v n : Nat} {vc : Voice} (h : vc.stage ≠ .idle) :
    (voiceSample c p d v n vc).2 =
      amplitude c vc (route p (oscOutputs c p vc 0) (oscOutputs c p vc 1) (oscOutputs c p vc 2) vc.flt).2
        (envStep c (envParamsOf p vc 0) vc.env[0]).level := by
  rw [voiceSample, if_neg h]; rfl

/-- A sample of a voice that does not fade changes nothing but its stage and its units (R97). -/
theorem voiceSample_frame_of_no_fade {c : Params} {p : Vector F32 59} {d v n : Nat} {vc : Voice}
    (hf : vc.fade = 0) :
    (voiceSample c p d v n vc).1 =
      { vc with
        stage := (voiceSample c p d v n vc).1.stage
        env := (voiceSample c p d v n vc).1.env
        osc := (voiceSample c p d v n vc).1.osc
        flt := (voiceSample c p d v n vc).1.flt } := by
  rcases voiceSample_cases c p d v n vc with
    ⟨-, e⟩ | ⟨-, hf', -⟩ | ⟨-, hf', -⟩ | ⟨-, hf', -⟩ | ⟨-, -, -, e⟩ | ⟨-, -, -, e⟩
  · rw [e]
  · omega
  · omega
  · omega
  · rw [e]; rfl
  · rw [e]; rfl

/-- A sample within a fade changes nothing but the fade counter and the units (R97). -/
theorem voiceSample_frame_of_fade {c : Params} {p : Vector F32 59} {d v n : Nat} {vc : Voice}
    (h : vc.stage ≠ .idle) (hf : 1 < vc.fade) :
    (voiceSample c p d v n vc).1 =
      { vc with
        fade := vc.fade - 1
        env := (voiceSample c p d v n vc).1.env
        osc := (voiceSample c p d v n vc).1.osc
        flt := (voiceSample c p d v n vc).1.flt } := by
  rcases voiceSample_cases c p d v n vc with
    ⟨hi, -⟩ | ⟨-, -, e⟩ | ⟨-, hf', -⟩ | ⟨-, hf', -⟩ | ⟨-, hf', -⟩ | ⟨-, hf', -⟩
  · exact absurd hi h
  · rw [e]; rfl
  · omega
  · omega
  · omega
  · omega

/-- One sample of a sounding voice is the one written out (R89, R92, R93, R96, R97, R110). -/
theorem voiceSample_sampled (c : Params) (p : Vector F32 59) (d v n : Nat) {vc : Voice} (h : vc.stage ≠ .idle) :
    Sampled c p d v n vc (voiceSample c p d v n vc).1 (voiceSample c p d v n vc).2 := by
  have hroute := route_eq p (oscOutputs c p vc) vc.flt rfl rfl
  refine ⟨oscOutputs c p vc, _, _, _, _, oscOut_output c p vc, fltNext_sampled _ _ _, fltNext_sampled _ _ _, ?_,
    fun hf => ?_, voiceSample_frame_of_no_fade, voiceSample_frame_of_fade h⟩
  · rw [voiceSample_out h, hroute]; rfl
  · obtain ⟨hflt, hosc, henv⟩ := voiceSample_units (c := c) (p := p) (d := d) (v := v) (n := n) h hf
    rw [hflt, hosc, henv, stepped_flt_eq, hroute]
    exact ⟨rfl, rfl, stepped_last c p d v n vc, rfl, rfl, rfl, stepped_env c p d v n vc⟩

/-! ### A gain of 1 (R93) -/

/-- A grid point is its own rounding. -/
theorem gridRound_gridUnits (m : Nat) {d : Nat} (hd : 0 < d) : gridRound (gridUnits m * d) d = m := by
  obtain ⟨below, above, -⟩ := gridRound_nearest (gridUnits m * d) hd m
  simp only [add_mul] at below above
  by_contra h
  obtain h | h := Nat.lt_or_gt_of_ne h
  · have := above h
    have := Nat.mul_lt_mul_of_pos_right (gridUnits_strictMono h) hd
    omega
  · have := below h
    have := Nat.mul_lt_mul_of_pos_right (gridUnits_strictMono h) hd
    omega

/-- Multiplication by 1 keeps every value that is not a NaN, bit for bit. -/
theorem f32_mul_one {x : F32} (h : F32.isNaN x = false) : F32.mul x F32.one = x := by
  have hone : F32.isFinite F32.one = true := by decide
  have hsign : (F32.sign x != F32.sign F32.one) = F32.sign x := by cases F32.sign x <;> rfl
  have hmag : ¬ 0x7F800000 < F32.mag x := of_decide_eq_false h
  obtain hlt | heq := (not_lt.mp hmag).lt_or_eq
  · rw [mul_of_finite (decide_eq_true hlt) hone, hsign, F32.ofRatio, roundMag_eq, units_eq_gridUnits x,
      show F32.units F32.one = 2 ^ 149 by decide, gridRound_gridUnits _ (by positivity), min_eq_right hlt.le]
    exact ofMag_sign_mag x
  · have hinf : F32.isInf x = true := decide_eq_true heq
    have hmul : F32.mul x F32.one = F32.ofMag (F32.sign x) 0x7F800000 := by
      rw [F32.mul, h, hinf, heq, hsign]; rfl
    rw [hmul, ← heq]
    exact ofMag_sign_mag x

/-- With no fade and the envelope at 1, the amplitude stage passes its signal (R93, R96). -/
theorem amplitude_one (c : Params) {vc : Voice} {x : F32} (hf : vc.fade = 0) (h : F32.isNaN x = false) :
    amplitude c vc x F32.one = x := by
  rw [amplitude, fadeGain, hf, f32_mul_one h]
  exact f32_mul_one h

/-- Settles O60: an Idle voice by the first arm of `voiceSample`, a sounding one part by part, and the gain 1. -/
theorem fullLevelKeepsSignal : Obligations.FullLevelKeepsSignal :=
  ⟨fun c p d v n _ => ⟨fun h => if_pos h, voiceSample_sampled c p d v n⟩, fun c _ _ hf h => amplitude_one c hf h⟩

end Sys2Proof.Machine
end

section
namespace Sys2Proof.Machine

/-! ## The fixed parameters, `clamp` and the configuration functions -/

/-- Words applied keep the parameters fixed before reset (R7). -/
theorem applyAll_cfg {ws : List Word} {s u : State} (h : applyAll ws s = .next u) : u.cfg = s.cfg :=
  applyAll_induction (Q := fun a b => b.cfg = a.cfg) (fun _ => rfl) (fun hab hbc => hbc.trans hab)
    (fun hw => (apply_keeps hw).1) h

/-- A drain keeps the parameters fixed before reset (R7). -/
theorem queueDrain_cfg {s u : State} (h : queueDrain s = .next u) : u.cfg = s.cfg :=
  applyAll_cfg (s := { s with q := [] }) h

/-- Settles O25: a push, a read and a rendering keep `cfg`, and so does every command of a drain. -/
theorem instanceParametersNeverChange : Obligations.InstanceParametersNeverChange := by
  intro s t h
  obtain ⟨w, rest, -, rfl⟩ | ⟨bs, got, rest, -, rfl⟩ | ⟨m, rest, -, -, rfl⟩ | ⟨-, u, hu, rfl⟩ := step_cases h
  · simp
  · obtain e | e := queueTransport_cases bs got { s with host := rest } <;> rw [e]
    rw [queuePush_cfg]
  · rfl
  · rw [renderStep_cfg]
    exact queueDrain_cfg (s := atTick s) hu

/-! ### `clamp` (R11) -/

/-- A comparison holds of two values that are not NaNs, by their keys. -/
theorem f32_lt_iff {a b : F32} :
    F32.lt a b = true ↔ F32.isNaN a = false ∧ F32.isNaN b = false ∧ F32.key a < F32.key b := by
  simp [F32.lt, and_assoc]

theorem f32_le_iff {a b : F32} :
    F32.le a b = true ↔ F32.isNaN a = false ∧ F32.isNaN b = false ∧ F32.key a ≤ F32.key b := by
  simp [F32.le, and_assoc]

theorem f32_le_refl {a : F32} (h : F32.isNaN a = false) : F32.le a a = true := f32_le_iff.mpr ⟨h, h, le_rfl⟩

/-- Of two values that are not NaNs, one is below the other or at most equal to it. -/
theorem f32_le_of_not_lt {a b : F32} (ha : F32.isNaN a = false) (hb : F32.isNaN b = false)
    (h : F32.lt b a = false) : F32.le a b = true := by
  refine f32_le_iff.mpr ⟨ha, hb, not_lt.mp fun hlt => ?_⟩
  rw [f32_lt_iff.mpr ⟨hb, ha, hlt⟩] at h
  cases h

theorem clamp_of_isNaN {x : F32} (lo hi : F32) (h : F32.isNaN x = true) : F32.clamp x lo hi = lo := if_pos h

theorem clamp_of_lt {x lo : F32} (hi : F32) (h : F32.lt x lo = true) : F32.clamp x lo hi = lo := by
  simp [F32.clamp, h]

theorem clamp_of_gt {x lo hi : F32} (hle : F32.le lo hi = true) (h : F32.lt hi x = true) :
    F32.clamp x lo hi = hi := by
  obtain ⟨-, -, hk⟩ := f32_le_iff.mp hle
  obtain ⟨-, hx, hlt⟩ := f32_lt_iff.mp h
  have hlo : F32.lt x lo = false := by
    rw [Bool.eq_false_iff]
    exact fun hc => by have := (f32_lt_iff.mp hc).2.2; omega
  simp [F32.clamp, hx, hlo, h]

theorem clamp_of_between {x lo hi : F32} (hx : F32.isNaN x = false) (hlo : F32.lt x lo = false)
    (hhi : F32.lt hi x = false) : F32.clamp x lo hi = x := by
  simp [F32.clamp, hx, hlo, hhi]

/-- The result of `clamp` lies between bounds that are in order. -/
theorem inRange_clamp (x : F32) {lo hi : F32} (hle : F32.le lo hi = true) :
    inRange (F32.clamp x lo hi) lo hi = true := by
  obtain ⟨hlo, hhi, -⟩ := f32_le_iff.mp hle
  rw [inRange, Bool.and_eq_true]
  cases hx : F32.isNaN x with
  | true => rw [clamp_of_isNaN lo hi hx]; exact ⟨f32_le_refl hlo, hle⟩
  | false =>
    cases h1 : F32.lt x lo with
    | true => rw [clamp_of_lt hi h1]; exact ⟨f32_le_refl hlo, hle⟩
    | false =>
      cases h2 : F32.lt hi x with
      | true => rw [clamp_of_gt hle h2]; exact ⟨hle, f32_le_refl hhi⟩
      | false =>
        rw [clamp_of_between hx h1 h2]
        exact ⟨f32_le_of_not_lt hlo hx h1, f32_le_of_not_lt hx hhi h2⟩

/-- Settles O54, arm by arm. -/
theorem clampStaysInRange : Obligations.ClampStaysInRange := fun x lo hi hle =>
  ⟨clamp_of_isNaN lo hi, clamp_of_lt hi, clamp_of_gt hle, clamp_of_between, inRange_clamp x hle⟩

/-! ### The configuration functions (R10) -/

theorem pinPow_one_right (f : F32 → F32 → F32) (x : F32) : Math.pinPow f x F32.one = x := if_pos rfl

theorem pinPow_one_left (f : F32 → F32 → F32) (y : F32) : Math.pinPow f F32.one y = F32.one := by
  unfold Math.pinPow
  split
  · rfl
  · rw [if_neg (by decide), if_pos rfl]

theorem pinPow_zero (f : F32 → F32 → F32) (y : F32) : Math.pinPow f F32.zero y = F32.zero := by
  unfold Math.pinPow
  split
  · rfl
  · rw [if_pos (by decide), show F32.sign F32.zero = false by decide, Bool.false_and]
    decide

/-- Of either zero, a power is a zero. -/
theorem mag_pinPow_of_mag_zero (f : F32 → F32 → F32) {x : F32} (y : F32) (h : F32.mag x = 0) :
    F32.mag (Math.pinPow f x y) = 0 := by
  by_cases hy : y = F32.one
  · rw [Math.pinPow, if_pos hy, h]
  · rw [Math.pinPow, if_neg hy, if_pos h]
    cases F32.sign x && F32.sign (f x y) <;> decide

/-- The other `powf` is the pinned opaque one, where that is monotone, and the first argument else. -/
theorem otherPow_cases :
    (Math.PowMonotone (Math.pinPow Config.anyPow) ∧ Math.otherPow = Math.pinPow Config.anyPow) ∨
    Math.otherPow = fun x _ => x := by
  by_cases h : Math.PowMonotone (Math.pinPow Config.anyPow)
  · exact .inl ⟨h, funext₂ fun x y => if_pos h⟩
  · exact .inr (funext₂ fun x y => if_neg h)

/-- Every `powf` is a pinned function or the first argument, the latter only among the other functions. -/
theorem powf_cases (m : MathChoice) : (∃ f, Math.powf m = Math.pinPow f) ∨ Math.powf m = fun x _ => x := by
  cases m with
  | reference => exact .inl ⟨Math.refPow, rfl⟩
  | other =>
    obtain ⟨-, h⟩ | h := otherPow_cases
    · exact .inl ⟨_, h⟩
    · exact .inr h

theorem exp2f_of_mag_zero (m : MathChoice) {x : F32} (h : F32.mag x = 0) : Math.exp2f m x = F32.one := if_pos h

theorem powf_one_right (m : MathChoice) (x : F32) : Math.powf m x F32.one = x := by
  obtain ⟨f, h⟩ | h := powf_cases m <;> rw [h]
  exact pinPow_one_right f x

theorem powf_one_left (m : MathChoice) (y : F32) : Math.powf m F32.one y = F32.one := by
  obtain ⟨f, h⟩ | h := powf_cases m <;> rw [h]
  exact pinPow_one_left f y

theorem powf_zero (m : MathChoice) (y : F32) : Math.powf m F32.zero y = F32.zero := by
  obtain ⟨f, h⟩ | h := powf_cases m <;> rw [h]
  exact pinPow_zero f y

theorem mag_powf_of_mag_zero (m : MathChoice) {x : F32} (y : F32) (hx : F32.mag x = 0) :
    F32.mag (Math.powf m x y) = 0 := by
  obtain ⟨f, h⟩ | h := powf_cases m <;> rw [h]
  · exact mag_pinPow_of_mag_zero f y hx
  · exact hx

theorem otherPow_monotone : Math.PowMonotone Math.otherPow := by
  obtain ⟨hm, h⟩ | h := otherPow_cases <;> rw [h]
  · exact hm
  · exact fun _ _ _ _ _ hle _ => hle

/-- Settles O55: the pinned values by the cases of `pinPow`, the monotone law by the choice in `otherPow`. -/
theorem mathLaws : Obligations.MathLaws :=
  ⟨fun m _ h => exp2f_of_mag_zero m h, powf_one_right,
    fun m y _ => ⟨powf_zero m y, powf_one_left m y, fun _ h => mag_powf_of_mag_zero m y h⟩, otherPow_monotone⟩

end Sys2Proof.Machine
end

section
namespace Sys2Proof.Machine

/-! ## The state after reset (R154) -/

/-- The parameters of `State.reset` are admissible: the opaque ones if they are, else those of the test vectors. -/
theorem config_params_wf : Config.params.wf = true := by
  unfold Config.params
  split
  · assumption
  · decide

theorem shapeOk_resetFor {c : Params} (h : c.wf = true) : ShapeOk (State.resetFor c) :=
  ⟨h, List.length_replicate, Nat.zero_le _, fun v => by simp [State.resetFor]⟩

/-- Every base register's reset value lies in its range (R22, R154). -/
theorem inRange_paramReset (c : Params) (pid : Pid) :
    inRange (paramReset c pid) (paramRange pid).1 (paramRange pid).2 = true := by
  cases pid with
  | osc k p =>
    cases p with
    | level => simp only [paramReset, paramRange]; split <;> decide
    | table | tune | fine | wavePos | unison | spread | sync | syncLeader | bypass =>
      simp only [paramReset, paramRange]; decide
  | flt f p => cases p <;> simp only [paramReset, paramRange] <;> decide
  | env e p => cases p <;> simp only [paramReset, paramRange] <;> decide
  | glb p =>
    cases p with
    | volume => simp only [paramReset, paramRange]; decide
    | routing =>
      simp only [paramReset, paramRange]
      generalize c.defaultRouting = r
      revert r
      decide

/-- An integer register's reset value is an integer (R28, R154). -/
theorem paramReset_integral (c : Params) (pid : Pid) (h : isInteger pid = true) :
    ∃ n : Nat, paramReset c pid = F32.ofNat n := by
  have zero_eq : F32.zero = F32.ofNat 0 := by decide
  have one_eq : F32.one = F32.ofNat 1 := by decide
  cases pid with
  | osc k p =>
    cases p with
    | table | sync | syncLeader | bypass => exact ⟨0, zero_eq⟩
    | unison => exact ⟨1, one_eq⟩
    | level | tune | fine | wavePos | spread => cases h
  | flt f p =>
    cases p with
    | mode => exact ⟨0, zero_eq⟩
    | cutoff | resonance => cases h
  | env e p => cases h
  | glb p =>
    cases p with
    | routing => exact ⟨c.defaultRouting.val, rfl⟩
    | volume => cases h

theorem patchOk_resetFor (c : Params) : PatchOk (State.resetFor c) := fun pid => by
  rw [State.resetFor, readParam_paramRegs]
  exact ⟨inRange_paramReset c pid, paramReset_integral c pid⟩

theorem slotsOk_resetFor (c : Params) : SlotsOk (State.resetFor c) := fun x hx => by
  obtain rfl : x = slotReset := List.eq_of_mem_replicate hx
  exact ⟨nofun, nofun, by decide⟩

/-- `+0.0` lies in the range of every global source input. -/
theorem inRange_gsrcRange_zero (i : Fin 5) : inRange F32.zero (gsrcRange i).1 (gsrcRange i).2 = true := by
  revert i; decide

/-- Every voice after reset is `voiceReset`. -/
@[simp] theorem resetFor_voice (c : Params) (v : Fin 32) : (State.resetFor c).voices[v.val] = voiceReset c := by
  simp [State.resetFor]

theorem sourcesOk_resetFor (c : Params) : SourcesOk (State.resetFor c) := by
  refine ⟨fun i => ?_, fun v i => ?_⟩
  · rw [State.resetFor, getElem_vconst]
    exact inRange_gsrcRange_zero i
  · rw [resetFor_voice, voiceReset, getElem_vconst]
    decide

theorem envelopesOk_resetFor (c : Params) : EnvelopesOk (State.resetFor c) := fun v e => by
  rw [resetFor_voice, voiceReset, getElem_vconst]
  decide

/-- Every reset phase `i / 7` lies in `[0, 1)` (R35). -/
theorem inUnit_resetPhases (i : Fin 7) : inUnit resetPhases[i.val] = true := by
  revert i; decide

theorem phasesOk_resetFor (c : Params) : PhasesOk (State.resetFor c) := fun v k i => by
  rw [resetFor_voice, voiceReset, getElem_vconst]
  exact inUnit_resetPhases i

theorem fadesOk_resetFor (c : Params) : FadesOk (State.resetFor c) := fun v => by
  rw [resetFor_voice]
  exact ⟨fun _ => rfl, Nat.zero_le _⟩

/-- No coefficient cache is valid after reset (R36). -/
theorem cachesOk_resetFor (c : Params) : CachesOk (State.resetFor c) := fun v f h => by
  rw [resetFor_voice, voiceReset, getElem_vconst] at h
  cases h

/-- Settles O36, invariant by invariant. -/
theorem resetMeetsInvariants : Obligations.ResetMeetsInvariants :=
  ⟨config_params_wf, fun c h =>
    ⟨shapeOk_resetFor h, patchOk_resetFor c, slotsOk_resetFor c, sourcesOk_resetFor c, envelopesOk_resetFor c,
      phasesOk_resetFor c, fadesOk_resetFor c, cachesOk_resetFor c⟩⟩

end Sys2Proof.Machine
end

section
namespace Sys2Proof.Machine

/-! ## What every step keeps: the induction over a step, and the invariants of flags, sizes and slots -/

/-- What a command does to the counters and flags: nothing, or it is rejected (R139). -/
theorem exec_diagnostics {i : Instr} {s t : State} (h : exec i s = .next t) :
    (t.cnt = s.cnt ∧ t.status = s.status) ∨ ∃ c, t = reject c s := by
  obtain rfl | ⟨c, rfl⟩ | ⟨_, _, _, rfl⟩ | ⟨_, _, _, rfl⟩ | ⟨_, _, _, _, _, _, rfl⟩ | ⟨_, _, _, rfl⟩ | ⟨_, _, _, rfl⟩ :=
    exec_cases h
  · exact .inl ⟨rfl, rfl⟩
  · exact .inr ⟨c, rfl⟩
  · exact .inl ⟨rfl, rfl⟩
  · exact .inl ⟨rfl, rfl⟩
  · exact .inl ⟨rfl, rfl⟩
  · exact .inl ⟨rfl, rfl⟩
  · exact .inl ⟨rfl, rfl⟩

/-- The induction over everything that can happen in a step: what the use of a move, a push, the emptying of the queue,
a rejection, a command and a rendering relate, a step relates. -/
theorem step_induction {Q : State → State → Prop} (trans : ∀ {a b c}, Q a b → Q b c → Q a c)
    (host : ∀ s rest, Q s { s with host := rest }) (push : ∀ w s, Q s (queuePush w s))
    (clear : ∀ s, Q s { s with q := [] }) (rejection : ∀ c s, Q s (reject c s))
    (command : ∀ {i s t}, exec i s = .next t → Q s t) (render : ∀ s, Q s (renderStep s)) {s t : State}
    (h : step s = .next t) : Q s t := by
  have refl (s : State) : Q s s := host s s.host
  obtain ⟨w, rest, -, rfl⟩ | ⟨bs, got, rest, -, rfl⟩ | ⟨m, rest, -, -, rfl⟩ | ⟨-, u, hu, rfl⟩ := step_cases h
  · exact trans (host s rest) (push w _)
  · refine trans (host s rest) ?_
    obtain e | e := queueTransport_cases bs got { s with host := rest } <;> rw [e]
    · exact push _ _
    · exact refl _
  · exact host s rest
  · have drain : Q { atTick s with q := [] } u := applyAll_induction refl trans (fun {w a b} hab => by
      obtain ⟨i, -, hi⟩ | ⟨c, -, rfl⟩ := apply_cases hab
      · exact command hi
      · exact rejection c a) hu
    exact trans (trans (host s _) (clear _)) (trans drain (render u))

/-- The induction for an invariant. -/
theorem step_invariant {I : State → Prop} (host : ∀ s rest, I s → I { s with host := rest })
    (push : ∀ w s, I s → I (queuePush w s)) (clear : ∀ s, I s → I { s with q := [] })
    (rejection : ∀ c s, I s → I (reject c s)) (command : ∀ {i s t}, exec i s = .next t → I s → I t)
    (render : ∀ s, I s → I (renderStep s)) {s t : State} (hs : I s) (h : step s = .next t) : I t :=
  step_induction (Q := fun a b => I a → I b) (fun hab hbc ha => hbc (hab ha)) host push clear rejection command render
    h hs

/-! ### Sticky flags (R39, R138, R144) -/

/-- From `s` to `t` no flag and no recorded cause is cleared, and a new cause has a code of R138. -/
def FlagsKept (s t : State) : Prop :=
  s.status &&& t.status = s.status ∧ (s.cnt.lastErr ≠ 0 → t.cnt.lastErr ≠ 0) ∧
    (t.cnt.lastErr = s.cnt.lastErr ∨ (1 ≤ t.cnt.lastErr.toNat ∧ t.cnt.lastErr.toNat ≤ 11))

theorem FlagsKept.trans {a b c : State} (hab : FlagsKept a b) (hbc : FlagsKept b c) : FlagsKept a c := by
  obtain ⟨hst, hne, hcode⟩ := hab
  obtain ⟨hst', hne', hcode'⟩ := hbc
  refine ⟨?_, hne' ∘ hne, ?_⟩
  · rw [← hst, BitVec.and_assoc, hst']
  · obtain e | e := hcode'
    · rwa [e]
    · exact .inr e

/-- Setting flags and leaving the recorded cause keeps both. -/
theorem flagsKept_of_or {s t : State} (bits : BitVec 4) (hst : t.status = s.status ||| bits)
    (hcause : t.cnt.lastErr = s.cnt.lastErr) : FlagsKept s t := by
  refine ⟨?_, fun h => hcause ▸ h, .inl hcause⟩
  rw [hst]
  ext i
  simp +contextual

/-- Leaving the flags and the recorded cause keeps both. -/
theorem flagsKept_of_eq {s t : State} (hst : t.status = s.status) (hcause : t.cnt.lastErr = s.cnt.lastErr) :
    FlagsKept s t :=
  flagsKept_of_or 0 (hst.trans BitVec.or_zero.symm) hcause

/-- The codes of R138 are 1 to 11. -/
theorem causeCode_bounds (c : Cause) : 1 ≤ (causeCode c).toNat ∧ (causeCode c).toNat ≤ 11 := by
  cases c <;> decide

theorem reject_flagsKept (c : Cause) (s : State) : FlagsKept s (reject c s) := by
  obtain ⟨hst, -⟩ : FlagsKept s (setStatus statusRej s) := flagsKept_of_or statusRej rfl rfl
  have hne : causeCode c ≠ 0 := fun h0 => by
    have := (causeCode_bounds c).1
    rw [h0] at this
    exact absurd this (by decide)
  exact ⟨hst, fun _ => hne, .inr (causeCode_bounds c)⟩

theorem queuePush_flagsKept (w : Word) (s : State) : FlagsKept s (queuePush w s) := by
  refine flagsKept_of_or (if s.q.length < s.cfg.qcap then 0 else statusOvf) ?_ (by rw [queuePush_cnt]; split <;> rfl)
  rw [queuePush_status]
  split
  · exact BitVec.or_zero.symm
  · rfl

theorem renderStep_flagsKept (s : State) : FlagsKept s (renderStep s) :=
  flagsKept_of_or _ ((renderStep_status s).trans (BitVec.or_assoc _ _ _)) (by rw [renderStep_cnt])

/-- Settles O24, by the induction over a step: a push, a rejection and a rendering only set flags, and only a rejection
records a cause. -/
theorem flagsStickForLife : Obligations.FlagsStickForLife := fun s t h =>
  step_induction (Q := FlagsKept) FlagsKept.trans (fun _ _ => flagsKept_of_eq rfl rfl) queuePush_flagsKept
    (fun _ => flagsKept_of_eq rfl rfl) reject_flagsKept
    (fun {i s t} hi => by
      obtain ⟨hcnt, hst⟩ | ⟨c, rfl⟩ := exec_diagnostics hi
      · exact flagsKept_of_eq hst (hcnt ▸ rfl)
      · exact reject_flagsKept c s)
    renderStep_flagsKept h

/-! ### Sizes (R40, R41, R100) -/

/-- Admissible parameters give a queue of at least one word (R6). -/
theorem one_le_qcap_of_wf {c : Params} (h : c.wf = true) : 1 ≤ c.qcap := by
  simp only [Params.wf, Bool.and_eq_true, decide_eq_true_eq] at h
  obtain ⟨⟨⟨⟨⟨-, hq⟩, -⟩, -⟩, -⟩, -⟩ := h
  exact hq

/-- A push leaves at most `QCAP` words (R54). -/
theorem queuePush_length_le (w : Word) {s : State} (hcap : 1 ≤ s.cfg.qcap) (hq : s.q.length ≤ s.cfg.qcap) :
    (queuePush w s).q.length ≤ s.cfg.qcap := by
  rw [queuePush_q]
  split
  · rw [List.length_append, List.length_singleton]; omega
  · rw [List.length_append, List.length_singleton, List.length_tail]; omega

/-- A command keeps the number of slots and the output buffers. -/
theorem exec_sizes {i : Instr} {s t : State} (h : exec i s = .next t) :
    t.slots.length = s.slots.length ∧ t.out = s.out := by
  obtain rfl | ⟨c, rfl⟩ | ⟨_, _, _, rfl⟩ | ⟨_, _, _, rfl⟩ | ⟨_, _, _, _, _, _, rfl⟩ | ⟨_, _, _, rfl⟩ | ⟨_, _, _, rfl⟩ :=
    exec_cases h
  · exact ⟨rfl, rfl⟩
  · exact ⟨rfl, rfl⟩
  · exact ⟨rfl, rfl⟩
  · exact ⟨rfl, rfl⟩
  · exact ⟨List.length_modify .., rfl⟩
  · exact ⟨List.length_modify .., rfl⟩
  · exact ⟨rfl, rfl⟩

/-- A voice rendered for `count` samples leaves `count` of them in its buffer (R41). -/
theorem renderVoice_length (c : Params) (p : Vector F32 59) (d v count n : Nat) (vc : Voice) :
    (renderVoice c p d v count n vc).2.length = count := by
  induction count generalizing n vc with
  | zero => rfl
  | succ count ih => rw [renderVoice, List.length_cons, ih]

/-- Settles O28: a push respects the capacity, a command modifies slots in place, a rendering writes `B` samples. -/
theorem shapeStays : Obligations.ShapeStays := fun s t hs h => by
  refine step_invariant (I := ShapeOk) (fun _ _ hs => hs) ?push ?clear (fun _ _ hs => hs) ?command ?render hs h
  case push =>
    rintro w s ⟨hwf, hslots, hq, hout⟩
    have hcap := one_le_qcap_of_wf hwf
    rw [ShapeOk, queuePush_cfg, queuePush_slots, queuePush_out]
    exact ⟨hwf, hslots, queuePush_length_le w hcap hq, hout⟩
  case clear => exact fun s ⟨hwf, hslots, _, hout⟩ => ⟨hwf, hslots, Nat.zero_le _, hout⟩
  case command =>
    rintro i s t hi ⟨hwf, hslots, hq, hout⟩
    obtain ⟨hcfg, hqueue, -⟩ := exec_keeps hi
    obtain ⟨hlen, houts⟩ := exec_sizes hi
    rw [ShapeOk, hcfg, hqueue, hlen, houts]
    exact ⟨hwf, hslots, hq, hout⟩
  case render =>
    rintro s ⟨hwf, hslots, hq, -⟩
    rw [ShapeOk, renderStep_cfg, renderStep_slots, renderStep_q]
    exact ⟨hwf, hslots, hq, fun v => by rw [renderStep_out, renderVoice_length]⟩

/-! ### Slots (R31) -/

/-- Every slot stays legal when one is replaced by a legal one. -/
theorem slotsOk_updateSlot {j : Nat} {f : Slot → Slot} {s : State} (hf : ∀ x, SlotOk x → SlotOk (f x)) (hs : SlotsOk s) :
    SlotsOk (updateSlot j f s) := fun x hx => by
  rw [updateSlot_slots] at hx
  obtain ⟨k, hk, rfl⟩ := List.mem_iff_getElem.mp hx
  rw [List.getElem_modify]
  split
  · exact hf _ (hs _ (List.getElem_mem _))
  · exact hs _ (List.getElem_mem _)

theorem exec_slotsOk {i : Instr} {s t : State} (h : exec i s = .next t) (hs : SlotsOk s) : SlotsOk t := by
  obtain rfl | ⟨c, rfl⟩ | ⟨_, _, -, rfl⟩ | ⟨_, _, -, rfl⟩ | ⟨j, en, src, tgt, htgt, hen, rfl⟩ | ⟨j, x, -, rfl⟩ |
    ⟨_, _, -, rfl⟩ := exec_cases h
  · exact hs
  · exact hs
  · exact hs
  · exact hs
  · exact slotsOk_updateSlot (fun _ ⟨_, _, hint⟩ => ⟨htgt, hen, hint⟩) hs
  · exact slotsOk_updateSlot (fun _ ⟨htgt, hen, _⟩ => ⟨htgt, hen, inRange_clamp x (by decide)⟩) hs
  · exact hs

/-- Settles O30: only SLOT_ROUTE and SLOT_INTENSITY write slots, the one a checked route, the other a clamped value. -/
theorem slotsStayCompatible : Obligations.SlotsStayCompatible := fun s t hs h =>
  step_invariant (I := SlotsOk) (fun _ _ hs => hs) (fun w s hs => by rwa [SlotsOk, queuePush_slots])
    (fun _ hs => hs) (fun _ _ hs => hs) exec_slotsOk (fun s hs => by rwa [SlotsOk, renderStep_slots]) hs h

end Sys2Proof.Machine
end

section
namespace Sys2Proof.Machine

/-! ## Values in order: comparisons as rationals, rounding between two values, and the ranges of registers -/

/-! ### The order of binary32 values (R11) -/

/-- A greater key is a greater number of units. -/
theorem toUnits_le_toUnits_iff (a b : F32) : F32.toUnits a ≤ F32.toUnits b ↔ F32.key a ≤ F32.key b := by
  have hab : gridUnits (F32.mag a) ≤ gridUnits (F32.mag b) ↔ F32.mag a ≤ F32.mag b := gridUnits_strictMono.le_iff_le
  have hba : gridUnits (F32.mag b) ≤ gridUnits (F32.mag a) ↔ F32.mag b ≤ F32.mag a := gridUnits_strictMono.le_iff_le
  have ha : F32.mag a ≤ gridUnits (F32.mag a) := gridUnits_strictMono.le_apply
  have hb : F32.mag b ≤ gridUnits (F32.mag b) := gridUnits_strictMono.le_apply
  have ha0 (h : F32.mag a = 0) : gridUnits (F32.mag a) = 0 := by rw [h]; rfl
  have hb0 (h : F32.mag b = 0) : gridUnits (F32.mag b) = 0 := by rw [h]; rfl
  simp only [F32.toUnits, F32.key, units_eq_gridUnits]
  split <;> split <;> omega

theorem valueOf_le_valueOf_iff (a b : F32) : valueOf a ≤ valueOf b ↔ F32.key a ≤ F32.key b := by
  rw [valueOf, valueOf, div_le_div_iff_of_pos_right (by positivity), Int.cast_le, toUnits_le_toUnits_iff]

/-- `≤` compares the rationals that two values stand for. -/
theorem f32_le_iff_valueOf {a b : F32} (ha : F32.isNaN a = false) (hb : F32.isNaN b = false) :
    F32.le a b = true ↔ valueOf a ≤ valueOf b := by
  rw [f32_le_iff, valueOf_le_valueOf_iff]
  exact ⟨fun h => h.2.2, fun h => ⟨ha, hb, h⟩⟩

theorem inRange_iff {x lo hi : F32} : inRange x lo hi = true ↔ F32.le lo x = true ∧ F32.le x hi = true := by
  rw [inRange, Bool.and_eq_true]

theorem natAbs_key (x : F32) : (F32.key x).natAbs = F32.mag x := by
  rw [F32.key]
  split <;> omega

/-- A value between two finite ones is finite. -/
theorem isFinite_of_inRange {x lo hi : F32} (hlo : F32.isFinite lo = true) (hhi : F32.isFinite hi = true)
    (h : inRange x lo hi = true) : F32.isFinite x = true := by
  obtain ⟨hle, hle'⟩ := inRange_iff.mp h
  obtain ⟨-, -, hk⟩ := f32_le_iff.mp hle
  obtain ⟨-, -, hk'⟩ := f32_le_iff.mp hle'
  rw [F32.isFinite, decide_eq_true_eq, ← natAbs_key] at hlo hhi ⊢
  omega

theorem valueOf_bounds_of_inRange {x lo hi : F32} (h : inRange x lo hi = true) :
    valueOf lo ≤ valueOf x ∧ valueOf x ≤ valueOf hi := by
  obtain ⟨hlo, hhi⟩ := inRange_iff.mp h
  exact ⟨(valueOf_le_valueOf_iff _ _).mpr (f32_le_iff.mp hlo).2.2,
    (valueOf_le_valueOf_iff _ _).mpr (f32_le_iff.mp hhi).2.2⟩

/-! ### Rounding is monotone -/

/-- A finite value lies far enough below the overflow bound of `RoundsTo`. -/
theorem abs_valueOf_lt {x : F32} (h : F32.isFinite x = true) : |valueOf x| < 2 ^ 128 - 2 ^ 103 := by
  have hmag : F32.mag x ≤ 0x7F7FFFFF := Nat.lt_succ_iff.mp (of_decide_eq_true h)
  calc |valueOf x| = gridValue (F32.mag x) := abs_valueOf x
    _ ≤ gridValue 0x7F7FFFFF := gridValue_strictMono.monotone hmag
    _ < 2 ^ 128 - 2 ^ 103 := by rw [gridValue, gridUnits_max]; norm_num

/-- An exact result between two finite values is rounded to a finite value between them (R9). -/
theorem inRange_of_roundsTo {q : ℚ} {r lo hi : F32} (h : RoundsTo q r) (hlo : F32.isFinite lo = true)
    (hhi : F32.isFinite hi = true) (hq : valueOf lo ≤ q) (hq' : q ≤ valueOf hi) : inRange r lo hi = true := by
  have hsmall : |q| < 2 ^ 128 - 2 ^ 103 := by
    have := abs_lt.mp (abs_valueOf_lt hlo)
    have := abs_lt.mp (abs_valueOf_lt hhi)
    exact abs_lt.mpr ⟨by linarith, by linarith⟩
  rw [RoundsTo, if_neg (not_le.mpr hsmall)] at h
  obtain ⟨hr, hnear⟩ := h
  have nan {x : F32} (hx : F32.isFinite x = true) := not_isNaN_of_isFinite hx
  refine inRange_iff.mpr ⟨(f32_le_iff_valueOf (nan hlo) (nan hr)).mpr ?_,
    (f32_le_iff_valueOf (nan hr) (nan hhi)).mpr ?_⟩
  · by_contra hlt
    have := (hnear lo hlo).1
    rw [abs_of_nonpos (by linarith), abs_of_nonpos (by linarith)] at this
    linarith
  · by_contra hlt
    have := (hnear hi hhi).1
    rw [abs_of_nonneg (by linarith), abs_of_nonneg (by linarith)] at this
    linarith

/-! ### Base registers (R21, R22, R28) -/

/-- An integer parameter's range is finite, from one natural number to another. -/
theorem paramRange_of_isInteger {pid : Pid} (h : isInteger pid = true) :
    ∃ a b : Nat, F32.toUnits (paramRange pid).1 = a * 2 ^ 149 ∧ F32.toUnits (paramRange pid).2 = b * 2 ^ 149 ∧
      F32.isFinite (paramRange pid).1 = true ∧ F32.isFinite (paramRange pid).2 = true := by
  cases pid with
  | osc k p =>
    cases p with
    | table => exact ⟨0, 255, by simp only [paramRange]; decide⟩
    | unison => exact ⟨1, 7, by simp only [paramRange]; decide⟩
    | sync => exact ⟨0, 1, by simp only [paramRange]; decide⟩
    | syncLeader => exact ⟨0, 2, by simp only [paramRange]; decide⟩
    | bypass => exact ⟨0, 1, by simp only [paramRange]; decide⟩
    | level | tune | fine | wavePos | spread => cases h
  | flt f p =>
    cases p with
    | mode => exact ⟨0, 2, by simp only [paramRange]; decide⟩
    | cutoff | resonance => cases h
  | env e p => cases h
  | glb p =>
    cases p with
    | routing => exact ⟨0, 1, by simp only [paramRange]; decide⟩
    | volume => cases h

theorem units_div_eq (z : ℤ) : ((z * 2 ^ 149 : ℤ) : ℚ) / 2 ^ 149 = z := by
  rw [Int.cast_mul, Int.cast_pow, Int.cast_ofNat, mul_div_assoc, div_self (pow_ne_zero _ two_ne_zero), mul_one]

/-- A whole number of `2^149` units stands for that number. -/
theorem valueOf_of_toUnits {x : F32} {z : ℤ} (h : F32.toUnits x = z * 2 ^ 149) : valueOf x = z := by
  rw [valueOf, h, units_div_eq]

/-- An integer is rounded to nearest. -/
theorem ofInt_roundsTo (z : ℤ) : RoundsTo z (F32.ofInt z) := by
  have h := ofUnits_roundsTo (z * 2 ^ 149)
  rwa [units_div_eq] at h

/-- A value between two natural numbers truncates to a natural number between them (R12). -/
theorem trunc_bounds {x lo hi : F32} {a b : Nat} (h : inRange x lo hi = true)
    (hlo : F32.toUnits lo = a * 2 ^ 149) (hhi : F32.toUnits hi = b * 2 ^ 149) :
    ∃ n : Nat, F32.trunc x = n ∧ a ≤ n ∧ n ≤ b := by
  obtain ⟨hle, hle'⟩ := inRange_iff.mp h
  have hx := (toUnits_le_toUnits_iff _ _).mpr (f32_le_iff.mp hle).2.2
  have hx' := (toUnits_le_toUnits_iff _ _).mpr (f32_le_iff.mp hle').2.2
  rw [hlo] at hx
  rw [hhi] at hx'
  have h0 : 0 ≤ F32.toUnits x := by omega
  have ht : F32.trunc x = F32.toUnits x / 2 ^ 149 := Int.tdiv_eq_ediv_of_nonneg h0
  refine ⟨(F32.trunc x).toNat, ?_, ?_, ?_⟩ <;> rw [ht] <;> omega

/-- What WRITE_PARAM stores lies in the register's range, and is an integer if the register is an integer one (R77). -/
theorem paramValue_legal (pid : Pid) (x : F32) :
    inRange (paramValue pid x) (paramRange pid).1 (paramRange pid).2 = true ∧
    (isInteger pid = true → ∃ n : Nat, paramValue pid x = F32.ofNat n) := by
  have hclamp := inRange_clamp x (paramRange_le pid)
  by_cases h : isInteger pid = true
  · obtain ⟨a, b, hlo, hhi, hlof, hhif⟩ := paramRange_of_isInteger h
    obtain ⟨n, hn, han, hnb⟩ := trunc_bounds hclamp hlo hhi
    have hval : paramValue pid x = F32.ofNat n := by rw [paramValue, if_pos h, hn, F32.ofNat]
    rw [hval]
    refine ⟨inRange_of_roundsTo (ofInt_roundsTo n) hlof hhif ?_ ?_, fun _ => ⟨n, rfl⟩⟩
    · rw [valueOf_of_toUnits hlo]
      exact_mod_cast han
    · rw [valueOf_of_toUnits hhi]
      exact_mod_cast hnb
  · rw [paramValue, if_neg h]
    exact ⟨hclamp, fun hi => absurd hi h⟩

theorem exec_patchOk {i : Instr} {s t : State} (h : exec i s = .next t) (hs : PatchOk s) : PatchOk t := by
  obtain rfl | ⟨_, rfl⟩ | ⟨pid, x, -, rfl⟩ | ⟨_, _, -, rfl⟩ | ⟨_, _, _, _, -, -, rfl⟩ | ⟨_, _, -, rfl⟩ | ⟨_, _, -, rfl⟩ :=
    exec_cases h
  · exact hs
  · exact hs
  · intro q
    rw [readParam_writeParamReg]
    split
    next hq => exact hq ▸ paramValue_legal pid x
    · exact hs q
  · exact hs
  · exact hs
  · exact hs
  · exact hs

/-- Settles O29: only WRITE_PARAM writes base registers, a value clamped to the range and truncated. -/
theorem patchStaysInRange : Obligations.PatchStaysInRange := fun _ _ hs h =>
  step_invariant (I := PatchOk) (fun _ _ hs => hs) (fun w s hs => by rwa [PatchOk, queuePush_p])
    (fun _ hs => hs) (fun _ _ hs => hs) exec_patchOk (fun s hs => by rwa [PatchOk, renderStep_p]) hs h

/-! ### Source inputs (R32, R33) -/

@[simp] theorem noteOnVoice_lsrc (note vel : BitVec 7) (vc : Voice) : (noteOnVoice note vel vc).lsrc = vc.lsrc := by
  unfold noteOnVoice
  split
  · rfl
  · split <;> rfl

@[simp] theorem noteOffVoice_lsrc (vc : Voice) : (noteOffVoice vc).lsrc = vc.lsrc := by
  unfold noteOffVoice
  split
  · rfl
  · split <;> rfl

@[simp] theorem stealVoice_lsrc (c : Params) (note vel : BitVec 7) (vc : Voice) :
    (stealVoice c note vel vc).lsrc = vc.lsrc := by
  unfold stealVoice
  split
  · rfl
  · split <;> rfl

/-- A command's update of a voice leaves its LFO inputs in range (R84). -/
theorem voiceCommand_lsrc_inRange {c : Params} {f : Voice → Voice} (hf : VoiceCommand c f) {vc : Voice}
    (h : ∀ i : Fin 2, inRange vc.lsrc[i.val] F32.minusOne F32.one = true) (i : Fin 2) :
    inRange (f vc).lsrc[i.val] F32.minusOne F32.one = true := by
  obtain ⟨note, vel, rfl⟩ | rfl | ⟨note, vel, rfl⟩ | ⟨j, x, -, rfl⟩ := hf
  · rw [noteOnVoice_lsrc]; exact h i
  · rw [noteOffVoice_lsrc]; exact h i
  · rw [stealVoice_lsrc]; exact h i
  · rw [Vector.getElem_set]
    split
    · exact inRange_clamp x (by decide)
    · exact h i

/-- The range of every global source input has its bounds in order. -/
theorem gsrcRange_le (i : Fin 5) : F32.le (gsrcRange i).1 (gsrcRange i).2 = true := by
  revert i; decide

theorem exec_sourcesOk {i : Instr} {s t : State} (h : exec i s = .next t) (hs : SourcesOk s) : SourcesOk t := by
  obtain ⟨hglobal, hlocal⟩ := hs
  obtain rfl | ⟨_, rfl⟩ | ⟨_, _, -, rfl⟩ | ⟨v, f, hf, rfl⟩ | ⟨_, _, _, _, -, -, rfl⟩ | ⟨_, _, -, rfl⟩ | ⟨j, x, -, rfl⟩ :=
    exec_cases h
  · exact ⟨hglobal, hlocal⟩
  · exact ⟨hglobal, hlocal⟩
  · exact ⟨hglobal, hlocal⟩
  · refine ⟨hglobal, fun u k => ?_⟩
    rw [updateVoice_getElem]
    split
    · exact voiceCommand_lsrc_inRange hf (hlocal v) k
    · exact hlocal u k
  · exact ⟨hglobal, hlocal⟩
  · exact ⟨hglobal, hlocal⟩
  · refine ⟨fun k => ?_, hlocal⟩
    rw [writeGsrc_gsrc, Vector.getElem_set]
    split
    next hk => exact Fin.ext hk ▸ inRange_clamp x (gsrcRange_le j)
    · exact hglobal k

/-- Settles O31: SET_GSRC and SET_LSRC write a clamped value, everything else leaves the source inputs. -/
theorem sourceInputsStayInRange : Obligations.SourceInputsStayInRange := fun _ _ hs h =>
  step_invariant (I := SourcesOk) (fun _ _ hs => hs)
    (fun w s hs => by rwa [SourcesOk, queuePush_gsrc, queuePush_voices]) (fun _ hs => hs) (fun _ _ hs => hs)
    exec_sourcesOk
    (fun s ⟨hglobal, hlocal⟩ => by
      refine ⟨by rwa [renderStep_gsrc], fun v i => ?_⟩
      rw [renderStep_lsrc]
      exact hlocal v i)
    hs h

end Sys2Proof.Machine
end

section
namespace Sys2Proof.Machine

/-! ## Invariants of the voices: envelopes, phases, fades, coefficient caches

Each is a property of one voice, carried through a step by `step_voices`. -/

/-- What a command's update makes of a voice: a new waiting note, a start, a retrigger, a cancelled waiting note, a
release, nothing, the start of a fade, or a written LFO input (R78 to R80, R84). -/
theorem voiceCommand_cases {c : Params} {f : Voice → Voice} (hf : VoiceCommand c f) (vc : Voice) :
    (∃ note vel, f vc = setPending note vel vc) ∨
    (∃ note vel, f vc = startVoice note vel vc) ∨
    (∃ note vel, vc.fade = 0 ∧ f vc = retrigger note vel vc) ∨
    f vc = { vc with pend := false } ∨
    (vc.fade = 0 ∧ f vc = { vc with stage := .releasing, env := vmap envNoteOff vc.env }) ∨
    f vc = vc ∨
    (∃ note vel, vc.stage ≠ .idle ∧ f vc = setPending note vel { vc with fade := c.fadeLen }) ∨
    ∃ (i : Fin 2) (x : F32), f vc = { vc with lsrc := vc.lsrc.set i.val (F32.clamp x F32.minusOne F32.one) } := by
  obtain ⟨note, vel, rfl⟩ | rfl | ⟨note, vel, rfl⟩ | ⟨i, x, -, rfl⟩ := hf
  · unfold noteOnVoice
    split
    · exact .inl ⟨note, vel, rfl⟩
    next hfade =>
      split
      · exact .inr (.inl ⟨note, vel, rfl⟩)
      · exact .inr (.inr (.inl ⟨note, vel, Nat.eq_zero_of_not_pos hfade, rfl⟩))
  · unfold noteOffVoice
    split
    · exact .inr (.inr (.inr (.inl rfl)))
    next hfade =>
      split
      · exact .inr (.inr (.inr (.inr (.inl ⟨Nat.eq_zero_of_not_pos hfade, rfl⟩))))
      · exact .inr (.inr (.inr (.inr (.inr (.inl rfl)))))
  · unfold stealVoice
    split
    · exact .inl ⟨note, vel, rfl⟩
    · split
      · exact .inr (.inl ⟨note, vel, rfl⟩)
      next hs =>
        exact .inr (.inr (.inr (.inr (.inr (.inr (.inl ⟨note, vel, fun hi => hs (.inl hi), rfl⟩))))))
  · exact .inr (.inr (.inr (.inr (.inr (.inr (.inr ⟨i, x, rfl⟩))))))

/-- A command's update of a voice leaves its oscillators and filters, unless it is a start. -/
theorem voiceCommand_units {c : Params} {f : Voice → Voice} (hf : VoiceCommand c f) (vc : Voice) :
    ((f vc).osc = vc.osc ∧ (f vc).flt = vc.flt) ∨ ∃ note vel, f vc = startVoice note vel vc := by
  obtain ⟨_, _, e⟩ | ⟨note, vel, e⟩ | ⟨_, _, -, e⟩ | e | ⟨-, e⟩ | e | ⟨_, _, -, e⟩ | ⟨_, _, e⟩ :=
    voiceCommand_cases hf vc <;> rw [e]
  · exact .inl ⟨rfl, rfl⟩
  · exact .inr ⟨note, vel, rfl⟩
  · exact .inl ⟨rfl, rfl⟩
  · exact .inl ⟨rfl, rfl⟩
  · exact .inl ⟨rfl, rfl⟩
  · exact .inl ⟨rfl, rfl⟩
  · exact .inl ⟨rfl, rfl⟩
  · exact .inl ⟨rfl, rfl⟩

/-! ### Envelopes (R37, R124) -/

/-- An envelope's level and start lie in `[0, 1]`. -/
def EnvInUnit (e : Env) : Prop := inRange e.level F32.zero F32.one = true ∧ inRange e.start F32.zero F32.one = true

theorem envInUnit_of_level {e : Env} {x : F32} (hx : inRange x F32.zero F32.one = true) (hlevel : e.level = x)
    (hstart : e.start = x) : EnvInUnit e := by
  rw [EnvInUnit, hlevel, hstart]
  exact ⟨hx, hx⟩

theorem envInUnit_envReset : EnvInUnit envReset := by unfold EnvInUnit; decide

theorem envInUnit_envNoteOn {e : Env} (h : EnvInUnit e) : EnvInUnit (envNoteOn e) :=
  envInUnit_of_level h.1 rfl rfl

theorem envInUnit_envNoteOff {e : Env} (h : EnvInUnit e) : EnvInUnit (envNoteOff e) := by
  unfold envNoteOff
  split
  · exact envInUnit_of_level h.1 rfl rfl
  · exact envInUnit_of_level h.1 rfl rfl
  · exact envInUnit_of_level h.1 rfl rfl
  · exact h
  · exact h

theorem envInUnit_envFinish {target : F32} (h : inRange target F32.zero F32.one = true) (e : Env) :
    EnvInUnit (envFinish target e) :=
  envInUnit_of_level h rfl rfl

theorem inRange_unit_one : inRange F32.one F32.zero F32.one = true := by decide

theorem inRange_unit_zero : inRange F32.zero F32.zero F32.one = true := by decide

/-- A sample of a timed segment ends it at its target or clamps its curve (R121, R124). -/
theorem envInUnit_envTimed {d : Nat} {target : F32} {curve : F32 → F32} {e : Env}
    (ht : inRange target F32.zero F32.one = true) (h : EnvInUnit e) : EnvInUnit (envTimed d target curve e) := by
  unfold envTimed
  split
  · exact envInUnit_envFinish ht _
  · exact ⟨inRange_clamp _ (by decide), h.2⟩

section
variable {c : Params} {q : EnvParams} {e : Env}

theorem envInUnit_envSustain (hq : inRange q.sustain F32.zero F32.one = true) (h : EnvInUnit e) :
    EnvInUnit (envSustain q e) := ⟨hq, h.2⟩

theorem envInUnit_envDecay (hq : inRange q.sustain F32.zero F32.one = true) (h : EnvInUnit e) :
    EnvInUnit (envDecay c q e) := by
  unfold envDecay
  split
  · exact envInUnit_envSustain hq (envInUnit_envFinish hq e)
  · exact envInUnit_envTimed hq h

theorem envInUnit_envAttack (hq : inRange q.sustain F32.zero F32.one = true) (h : EnvInUnit e) :
    EnvInUnit (envAttack c q e) := by
  unfold envAttack
  split
  · exact envInUnit_envDecay hq (envInUnit_envFinish inRange_unit_one e)
  · exact envInUnit_envTimed inRange_unit_one h

theorem envInUnit_envRelease (h : EnvInUnit e) : EnvInUnit (envRelease c q e) := by
  unfold envRelease
  split
  · exact envInUnit_envFinish inRange_unit_zero e
  · exact envInUnit_envTimed inRange_unit_zero h

/-- A sample keeps an envelope in `[0, 1]` if SUSTAIN lies there. -/
theorem envInUnit_envStep (hq : inRange q.sustain F32.zero F32.one = true) (h : EnvInUnit e) :
    EnvInUnit (envStep c q e) := by
  unfold envStep
  split
  · exact h
  · exact envInUnit_envAttack hq h
  · exact envInUnit_envDecay hq h
  · exact envInUnit_envSustain hq h
  · exact envInUnit_envRelease h

end

/-- The envelopes of a voice lie in `[0, 1]`. -/
def EnvsInUnit (vc : Voice) : Prop := ∀ e : Fin 3, EnvInUnit vc.env[e.val]

/-- The effective SUSTAIN of each envelope lies in `[0, 1]`; no base register is read for it (R29). -/
def SustainsInUnit (vc : Voice) : Prop :=
  ∀ (p : Vector F32 59) (e : Fin 3), inRange (readEff p vc (.env e .sustain)) F32.zero F32.one = true

theorem envsInUnit_reinit (vc : Voice) : EnvsInUnit (reinit vc) := fun e => by
  rw [reinit, getElem_vconst]
  exact envInUnit_envReset

/-- Events that keep every envelope in `[0, 1]` keep a voice's there. -/
theorem envsInUnit_vmap {f : Env → Env} (hf : ∀ e, EnvInUnit e → EnvInUnit (f e)) {a b : Voice} (h : EnvsInUnit a)
    (hb : b.env = vmap f a.env) : EnvsInUnit b := fun e => by
  rw [hb, getElem_vmap]
  exact hf _ (h e)

theorem envsInUnit_startVoice (note vel : BitVec 7) (vc : Voice) : EnvsInUnit (startVoice note vel vc) :=
  envsInUnit_vmap (fun _ => envInUnit_envNoteOn) (envsInUnit_reinit vc) rfl

theorem envsInUnit_voiceCommand {c : Params} {f : Voice → Voice} (hf : VoiceCommand c f) {vc : Voice}
    (h : EnvsInUnit vc) : EnvsInUnit (f vc) := by
  obtain ⟨_, _, e⟩ | ⟨_, _, e⟩ | ⟨_, _, -, e⟩ | e | ⟨-, e⟩ | e | ⟨_, _, -, e⟩ | ⟨_, _, e⟩ := voiceCommand_cases hf vc <;>
    rw [e]
  · exact h
  · exact envsInUnit_startVoice _ _ vc
  · exact envsInUnit_vmap (fun _ => envInUnit_envNoteOn) h rfl
  · exact h
  · exact envsInUnit_vmap (fun _ => envInUnit_envNoteOff) h rfl
  · exact h
  · exact h
  · exact h

/-- The resolution clamps every effective SUSTAIN to `[0, 1]` (R25, R131). -/
theorem sustainsInUnit_resolveVoice (p : Vector F32 59) (gsrc : Vector F32 5) (slots : List Slot) (vc : Voice) :
    SustainsInUnit (resolveVoice p gsrc slots vc) := fun p' e => by
  have hread : readEff p' (resolveVoice p gsrc slots vc) (.env e .sustain) =
      effValue (readParam p (.env e .sustain)) (localAcc gsrc slots vc (.env e .sustain)) (.env e .sustain) :=
    effRegs_getElem _ rfl
  rw [hread]
  exact inRange_clamp _ (paramRange_le _)

theorem envsInUnit_stepped (c : Params) (p : Vector F32 59) (d v n : Nat) {vc : Voice} (h : EnvsInUnit vc)
    (hsus : SustainsInUnit vc) : EnvsInUnit (stepped c p d v n vc) := fun e => by
  rw [stepped_env]
  exact envInUnit_envStep (hsus p e) (h e)

theorem envsInUnit_voiceSample (c : Params) (p : Vector F32 59) (d v n : Nat) {vc : Voice} (h : EnvsInUnit vc)
    (hsus : SustainsInUnit vc) : EnvsInUnit (voiceSample c p d v n vc).1 := by
  have hstep := envsInUnit_stepped c p d v n h hsus
  obtain ⟨-, e⟩ | ⟨-, -, e⟩ | ⟨-, -, -, e⟩ | ⟨-, -, -, e⟩ | ⟨-, -, -, e⟩ | ⟨-, -, -, e⟩ :=
    voiceSample_cases c p d v n vc <;> rw [e]
  · exact h
  · exact hstep
  · exact envsInUnit_startVoice _ _ _
  · exact envsInUnit_reinit (stepped c p d v n vc)
  · exact hstep
  · exact hstep

/-- Equal effective registers have SUSTAIN in range alike. -/
theorem sustainsInUnit_of_eff_eq {a b : Voice} (heff : b.eff = a.eff) (h : SustainsInUnit a) : SustainsInUnit b :=
  fun p e => by
    have hread : readEff p b (.env e .sustain) = readEff p a (.env e .sustain) := by simp only [readEff, heff]
    rw [hread]
    exact h p e

theorem prepareVoice_env_eff (c : Params) (p : Vector F32 59) (d v : Nat) (vc : Voice) :
    (prepareVoice c p d v vc).env = vc.env ∧ (prepareVoice c p d v vc).eff = vc.eff := by
  rw [(prepareVoice_keeps c p d v vc).1]
  exact ⟨rfl, rfl⟩

/-- Settles O32: the resolution brings SUSTAIN into `[0, 1]`, and then every sample keeps levels and starts there. -/
theorem envelopeLevelsStayInUnitRange : Obligations.EnvelopeLevelsStayInUnitRange := fun _ _ hs h =>
  step_voices (R := fun _ vc => EnvsInUnit vc) (R' := fun _ vc => EnvsInUnit vc ∧ SustainsInUnit vc)
    (fun _ _ _ hf hvc => envsInUnit_voiceCommand hf hvc)
    (fun _ p gsrc slots vc hvc => ⟨hvc, sustainsInUnit_resolveVoice p gsrc slots vc⟩)
    (fun c p d v vc ⟨henv, hsus⟩ => by
      obtain ⟨he, heff⟩ := prepareVoice_env_eff c p d v vc
      exact ⟨by rwa [EnvsInUnit, he], sustainsInUnit_of_eff_eq heff hsus⟩)
    (fun c p d v n vc ⟨henv, hsus⟩ =>
      ⟨envsInUnit_voiceSample c p d v n henv hsus,
        sustainsInUnit_of_eff_eq (voiceSample_keeps c p d v n vc).1 hsus⟩)
    (fun _ _ hvc => hvc.1) hs h

/-! ### Fades (R34, R97) -/

/-- An Idle voice does not fade, and no fade is longer than FADE. -/
def FadeOk (c : Params) (vc : Voice) : Prop := (vc.stage = .idle → vc.fade = 0) ∧ vc.fade ≤ c.fadeLen

/-- A voice that does not fade satisfies both bounds. -/
theorem fadeOk_of_fade_eq_zero (c : Params) {vc : Voice} (h : vc.fade = 0) : FadeOk c vc :=
  ⟨fun _ => h, h ▸ Nat.zero_le _⟩

/-- Only a sounding voice begins to fade, for FADE samples (R80). -/
theorem fadeOk_voiceCommand {c : Params} {f : Voice → Voice} (hf : VoiceCommand c f) {vc : Voice} (h : FadeOk c vc) :
    FadeOk c (f vc) := by
  obtain ⟨_, _, e⟩ | ⟨_, _, e⟩ | ⟨_, _, h0, e⟩ | e | ⟨h0, e⟩ | e | ⟨_, _, hst, e⟩ | ⟨_, _, e⟩ :=
    voiceCommand_cases hf vc <;> rw [e]
  · exact h
  · exact fadeOk_of_fade_eq_zero c rfl
  · exact fadeOk_of_fade_eq_zero c h0
  · exact h
  · exact fadeOk_of_fade_eq_zero c h0
  · exact h
  · exact ⟨fun hi => absurd hi hst, le_rfl⟩
  · exact h

/-- A voice goes Idle only with its fade at an end (R97). -/
theorem fadeOk_voiceSample (c : Params) (p : Vector F32 59) (d v n : Nat) {vc : Voice} (h : FadeOk c vc) :
    FadeOk c (voiceSample c p d v n vc).1 := by
  obtain ⟨-, e⟩ | ⟨hst, -, e⟩ | ⟨-, -, -, e⟩ | ⟨-, -, -, e⟩ | ⟨-, hf, -, e⟩ | ⟨-, hf, -, e⟩ :=
    voiceSample_cases c p d v n vc <;> rw [e]
  · exact h
  · exact ⟨fun hi => absurd hi hst, (Nat.sub_le _ _).trans h.2⟩
  · exact fadeOk_of_fade_eq_zero c rfl
  · exact fadeOk_of_fade_eq_zero c rfl
  · exact fadeOk_of_fade_eq_zero c hf
  · exact fadeOk_of_fade_eq_zero c hf

/-- Settles O34: the commands and the samples keep both bounds, resolution, preparation and guard leave the fade. -/
theorem idleVoicesDoNotFade : Obligations.IdleVoicesDoNotFade := fun _ _ hs h =>
  step_voices (R := FadeOk) (R' := FadeOk) (fun _ _ _ hf hvc => fadeOk_voiceCommand hf hvc)
    (fun _ _ _ _ _ hvc => hvc)
    (fun c p d v vc hvc => by rw [(prepareVoice_keeps c p d v vc).1]; exact hvc)
    (fun c p d v n _ hvc => fadeOk_voiceSample c p d v n hvc) (fun _ _ hvc => hvc) hs h

/-! ### Coefficient caches (R36, R113) -/

/-- The cache of a filter is the function of its key, if it is valid. -/
def CacheOk (c : Params) (x : Flt) : Prop := x.cvalid = true → sameCoefs x.coefs (fltCoef c x.key)

/-- The caches of a voice are functions of their keys. -/
def VoiceCachesOk (c : Params) (vc : Voice) : Prop := ∀ f : Fin 2, CacheOk c vc.flt[f.val]

/-- The same cache in two filters is legal in both. -/
theorem cacheOk_congr {c : Params} {x y : Flt} (hcoefs : y.coefs = x.coefs) (hkey : y.key = x.key)
    (hvalid : y.cvalid = x.cvalid) (h : CacheOk c x) : CacheOk c y := by
  rwa [CacheOk, hcoefs, hkey, hvalid]

/-- Coefficients written to the cache are those computed, up to the payload of a NaN (log entry 4). -/
theorem settleCoefs_same (d v f : Nat) (x : Coefs) : sameCoefs (settleCoefs d v f x) x :=
  ⟨settle_sameOrNan _ _ _, settle_sameOrNan _ _ _, settle_sameOrNan _ _ _, settle_sameOrNan _ _ _,
    settle_sameOrNan _ _ _⟩

/-- An update keeps the cache or computes it from its key (R113). -/
theorem cacheOk_fltCoefUpdate (c : Params) (key : FltKey) (d v f : Nat) {x : Flt} (h : CacheOk c x) :
    CacheOk c (fltCoefUpdate c key d v f x) := by
  unfold fltCoefUpdate
  split
  · exact h
  · exact fun _ => settleCoefs_same d v f _

theorem voiceCachesOk_prepareVoice (c : Params) (p : Vector F32 59) (d v : Nat) {vc : Voice} (h : VoiceCachesOk c vc) :
    VoiceCachesOk c (prepareVoice c p d v vc) := by
  unfold prepareVoice
  split
  · exact h
  · intro f
    match f with
    | 0 => exact cacheOk_fltCoefUpdate c _ d v 0 (h 0)
    | 1 => exact cacheOk_fltCoefUpdate c _ d v 1 (h 1)

theorem voiceCachesOk_startVoice {c : Params} (note vel : BitVec 7) {vc : Voice} (h : VoiceCachesOk c vc) :
    VoiceCachesOk c (startVoice note vel vc) := fun f => by
  rw [startVoice, reinit, getElem_vmap]
  exact h f

theorem voiceCachesOk_voiceCommand {c : Params} {f : Voice → Voice} (hf : VoiceCommand c f) {vc : Voice}
    (h : VoiceCachesOk c vc) : VoiceCachesOk c (f vc) := by
  obtain ⟨-, hflt⟩ | ⟨note, vel, e⟩ := voiceCommand_units hf vc
  · rwa [VoiceCachesOk, hflt]
  · rw [e]
    exact voiceCachesOk_startVoice note vel h

theorem voiceCachesOk_voiceSample (c : Params) (p : Vector F32 59) (d v n : Nat) {vc : Voice} (h : VoiceCachesOk c vc) :
    VoiceCachesOk c (voiceSample c p d v n vc).1 := fun f => by
  obtain ⟨hcoefs, hkey, hvalid⟩ := (voiceSample_keeps c p d v n vc).2.2 f
  exact cacheOk_congr hcoefs hkey hvalid (h f)

/-- The non-finite guard keeps the caches (R117). -/
theorem voiceCachesOk_guarded {c : Params} {vc : Voice} (h : VoiceCachesOk c vc) : VoiceCachesOk c (guarded vc) :=
  fun f => by
    rw [guarded, getElem_vmap, nanGuard]
    split <;> exact h f

/-- Settles O35: only the preparation writes a cache, with the coefficients of the key it writes. -/
theorem filterCachesMatchKeys : Obligations.FilterCachesMatchKeys := fun _ _ hs h =>
  step_voices (R := VoiceCachesOk) (R' := VoiceCachesOk) (fun _ _ _ hf hvc => voiceCachesOk_voiceCommand hf hvc)
    (fun _ _ _ _ _ hvc => hvc) (fun c p d v _ hvc => voiceCachesOk_prepareVoice c p d v hvc)
    (fun c p d v n _ hvc => voiceCachesOk_voiceSample c p d v n hvc) (fun _ _ hvc => voiceCachesOk_guarded hvc) hs h

/-! ### Phases (R35, R104) -/

theorem inUnit_iff {x : F32} : inUnit x = true ↔ F32.le F32.zero x = true ∧ F32.lt x F32.one = true := by
  rw [inUnit, Bool.and_eq_true]

/-- Of two values that are not NaNs, the second is at most the first or above it. -/
theorem f32_lt_of_not_le {a b : F32} (ha : F32.isNaN a = false) (hb : F32.isNaN b = false)
    (h : ¬ F32.le b a = true) : F32.lt a b = true :=
  f32_lt_iff.mpr ⟨ha, hb, not_le.mp fun hk => h (f32_le_iff.mpr ⟨hb, ha, hk⟩)⟩

theorem f32_le_of_lt {a b : F32} (h : F32.lt a b = true) : F32.le a b = true := by
  obtain ⟨ha, hb, hk⟩ := f32_lt_iff.mp h
  exact f32_le_iff.mpr ⟨ha, hb, hk.le⟩

theorem f32_lt_of_le_of_lt {a b c : F32} (hab : F32.le a b = true) (hbc : F32.lt b c = true) : F32.lt a c = true := by
  obtain ⟨ha, -, hk⟩ := f32_le_iff.mp hab
  obtain ⟨-, hc, hk'⟩ := f32_lt_iff.mp hbc
  exact f32_lt_iff.mpr ⟨ha, hc, hk.trans_lt hk'⟩

/-- The exact sum of two finite values, if it lies between two finite values, is rounded to a value between them. -/
theorem inRange_add {a b lo hi : F32} (ha : F32.isFinite a = true) (hb : F32.isFinite b = true)
    (hlo : F32.isFinite lo = true) (hhi : F32.isFinite hi = true) (hq : valueOf lo ≤ valueOf a + valueOf b)
    (hq' : valueOf a + valueOf b ≤ valueOf hi) : inRange (F32.add a b) lo hi = true :=
  inRange_of_roundsTo (addRounds a b ha hb).1 hlo hhi hq hq'

/-- `1.5`, a bound of a phase plus an increment. -/
abbrev oneAndHalf : F32 := 0x3FC00000#32

theorem valueOf_zero : valueOf F32.zero = 0 := valueOf_of_toUnits (z := 0) (by decide)
theorem valueOf_one : valueOf F32.one = 1 := valueOf_of_toUnits (z := 1) (by decide)
theorem valueOf_minusOne : valueOf F32.minusOne = -1 := valueOf_of_toUnits (z := -1) (by decide)

theorem valueOf_half : valueOf F32.half = 1 / 2 := by
  rw [valueOf, show F32.toUnits F32.half = 2 ^ 148 by decide]; norm_num

theorem valueOf_oneAndHalf : valueOf oneAndHalf = 3 / 2 := by
  rw [valueOf, show F32.toUnits oneAndHalf = 3 * 2 ^ 148 by decide]; norm_num

/-- A phase in `[0, 1)` advanced by an increment in `[0, 0.5]` lies in `[0, 1)`: the sum is at most 1.5, and a wrap takes
it to at most 0.5 (R104). -/
theorem inUnit_advance {ph inc : F32} (hph : inUnit ph = true) (hinc : inRange inc F32.zero F32.half = true) :
    inUnit (advance ph inc).1 = true := by
  obtain ⟨hph0, hph1⟩ := inUnit_iff.mp hph
  have hphRange := inRange_iff.mpr ⟨hph0, f32_le_of_lt hph1⟩
  have hphFin := isFinite_of_inRange (by decide) (by decide) hphRange
  have hincFin := isFinite_of_inRange (by decide) (by decide) hinc
  obtain ⟨hp, hp'⟩ := valueOf_bounds_of_inRange hphRange
  obtain ⟨hi, hi'⟩ := valueOf_bounds_of_inRange hinc
  rw [valueOf_zero] at hp hi
  rw [valueOf_one] at hp'
  rw [valueOf_half] at hi'
  have hsum : inRange (F32.add ph inc) F32.zero oneAndHalf = true :=
    inRange_add hphFin hincFin (by decide) (by decide) (by rw [valueOf_zero]; linarith)
      (by rw [valueOf_oneAndHalf]; linarith)
  have hsumFin := isFinite_of_inRange (by decide) (by decide) hsum
  obtain ⟨hsum0, hsum'⟩ := inRange_iff.mp hsum
  unfold advance
  split
  case isTrue hwrap =>
    obtain ⟨hs, hs'⟩ := valueOf_bounds_of_inRange (inRange_iff.mpr ⟨hwrap, hsum'⟩)
    rw [valueOf_one] at hs
    rw [valueOf_oneAndHalf] at hs'
    have hdiff : inRange (F32.sub (F32.add ph inc) F32.one) F32.zero F32.half = true := by
      rw [F32.sub, show F32.neg F32.one = F32.minusOne by decide]
      refine inRange_add hsumFin (by decide) (by decide) (by decide) ?_ ?_
      · rw [valueOf_zero, valueOf_minusOne]; linarith
      · rw [valueOf_half, valueOf_minusOne]; linarith
    obtain ⟨hd, hd'⟩ := inRange_iff.mp hdiff
    exact inUnit_iff.mpr ⟨hd, f32_lt_of_le_of_lt hd' (by decide)⟩
  case isFalse hwrap =>
    exact inUnit_iff.mpr ⟨hsum0, f32_lt_of_not_le (not_isNaN_of_isFinite hsumFin) (by decide) hwrap⟩

/-- The increment is clamped to `[0, 0.5]`, whatever the pitch (R103). -/
theorem inRange_phaseInc (c : Params) (semis : F32) : inRange (phaseInc c semis) F32.zero F32.half = true :=
  inRange_clamp _ (by decide)

/-- The phases of an oscillator lie in `[0, 1)`. -/
def OscInUnit (o : Osc) : Prop := ∀ i : Fin 7, inUnit o.ph[i.val] = true

/-- The phases of a voice lie in `[0, 1)`. -/
def OscsInUnit (vc : Voice) : Prop := ∀ k : Fin 3, OscInUnit vc.osc[k.val]

/-- A sample advances a phase, resets it or leaves it (R104, R105, R110). -/
theorem oscInUnit_oscSample (c : Params) (q : OscParams) (note : BitVec 7) (wraps : List Bool) (d : Nat) (site : NanSite)
    {o : Osc} (h : OscInUnit o) : OscInUnit (oscSample c q note wraps d site o).osc := fun i => by
  rw [oscSample, oscPhases, getElem_vmapIdx]
  split
  · split
    · decide
    · exact inUnit_advance (h i) (inRange_phaseInc c _)
  · exact h i

theorem oscsInUnit_stepped (c : Params) (p : Vector F32 59) (d v n : Nat) {vc : Voice} (h : OscsInUnit vc) :
    OscsInUnit (stepped c p d v n vc) := fun k =>
  match k with
  | 0 => oscInUnit_oscSample _ _ _ _ _ _ (h 0)
  | 1 => oscInUnit_oscSample _ _ _ _ _ _ (h 1)
  | 2 => oscInUnit_oscSample _ _ _ _ _ _ (h 2)

theorem oscsInUnit_reinit (vc : Voice) : OscsInUnit (reinit vc) := fun k => by
  rw [reinit, getElem_vconst]
  exact inUnit_resetPhases

theorem oscsInUnit_startVoice (note vel : BitVec 7) (vc : Voice) : OscsInUnit (startVoice note vel vc) :=
  oscsInUnit_reinit vc

theorem oscsInUnit_voiceCommand {c : Params} {f : Voice → Voice} (hf : VoiceCommand c f) {vc : Voice}
    (h : OscsInUnit vc) : OscsInUnit (f vc) := by
  obtain ⟨hosc, -⟩ | ⟨note, vel, e⟩ := voiceCommand_units hf vc
  · rwa [OscsInUnit, hosc]
  · rw [e]
    exact oscsInUnit_startVoice note vel vc

theorem oscsInUnit_voiceSample (c : Params) (p : Vector F32 59) (d v n : Nat) {vc : Voice} (h : OscsInUnit vc) :
    OscsInUnit (voiceSample c p d v n vc).1 := by
  have hstep := oscsInUnit_stepped c p d v n h
  obtain ⟨-, e⟩ | ⟨-, -, e⟩ | ⟨-, -, -, e⟩ | ⟨-, -, -, e⟩ | ⟨-, -, -, e⟩ | ⟨-, -, -, e⟩ :=
    voiceSample_cases c p d v n vc <;> rw [e]
  · exact h
  · exact hstep
  · exact oscsInUnit_startVoice _ _ _
  · exact oscsInUnit_reinit (stepped c p d v n vc)
  · exact hstep
  · exact hstep

/-- Settles O33: a start resets the phases to legal ones, and every sample advances them within `[0, 1)`. -/
theorem phasesStayInUnitInterval : Obligations.PhasesStayInUnitInterval := fun _ _ hs h =>
  step_voices (R := fun _ vc => OscsInUnit vc) (R' := fun _ vc => OscsInUnit vc)
    (fun _ _ _ hf hvc => oscsInUnit_voiceCommand hf hvc) (fun _ _ _ _ _ hvc => hvc)
    (fun c p d v vc hvc => by rw [(prepareVoice_keeps c p d v vc).1]; exact hvc)
    (fun c p d v n _ hvc => oscsInUnit_voiceSample c p d v n hvc) (fun _ _ hvc => hvc) hs h

end Sys2Proof.Machine
end

section
namespace Sys2Proof.Machine

/-! ## Identifiers, and which commands write a register -/

/-! ### Identifiers (R20, R27, R32, R136) -/

theorem mem_allPids (pid : Pid) : pid ∈ allPids := List.mem_of_getElem? (allPids_getElem? pid)

theorem allPids_nodup : allPids.Nodup := by
  have hindices : allPids.map (fun pid => (pidIndex pid).val) = List.range 59 := by decide
  exact List.Nodup.of_map _ (hindices ▸ List.nodup_range)

/-- Every identifier names its parameter. -/
theorem pidOfBits_pidBits (pid : Pid) : pidOfBits (pidBits pid) = some pid := by
  have h : ∀ p ∈ allPids, pidOfBits (pidBits p) = some p := by decide
  exact h pid (mem_allPids pid)

/-- An identifier is its kind nibble, its unit nibble and its index byte (R20). -/
theorem ofNat_fields (w : BitVec 16) :
    BitVec.ofNat 16 (w.toNat / 0x1000 * 0x1000 + 0x100 * (w.toNat / 0x100 % 0x10) + w.toNat % 0x100) = w := by
  refine BitVec.eq_of_toNat_eq ?_
  have := w.isLt
  rw [BitVec.toNat_ofNat]
  omega

/-- A parameter stands in the list of its kind at its index and nowhere else. -/
theorem oscIdx_of_getElem? {i : Nat} {p : OscParam} (h : oscParams[i]? = some p) : oscIdx p = i := by
  have hp : oscParams[oscIdx p]? = some p ∧ oscIdx p < oscParams.length := by cases p <;> decide
  exact (List.getElem?_inj hp.2 (by decide)).mp (hp.1.trans h.symm)

theorem fltIdx_of_getElem? {i : Nat} {p : FltParam} (h : fltParams[i]? = some p) : fltIdx p = i := by
  have hp : fltParams[fltIdx p]? = some p ∧ fltIdx p < fltParams.length := by cases p <;> decide
  exact (List.getElem?_inj hp.2 (by decide)).mp (hp.1.trans h.symm)

theorem envIdx_of_getElem? {i : Nat} {p : EnvParam} (h : envParams[i]? = some p) : envIdx p = i := by
  have hp : envParams[envIdx p]? = some p ∧ envIdx p < envParams.length := by cases p <;> decide
  exact (List.getElem?_inj hp.2 (by decide)).mp (hp.1.trans h.symm)

theorem glbIdx_of_getElem? {i : Nat} {p : GlbParam} (h : glbParams[i]? = some p) : glbIdx p = i := by
  have hp : glbParams[glbIdx p]? = some p ∧ glbIdx p < glbParams.length := by cases p <;> decide
  exact (List.getElem?_inj hp.2 (by decide)).mp (hp.1.trans h.symm)

/-- An identifier that names a parameter is that parameter's. -/
theorem pidBits_of_pidOfBits {w : BitVec 16} {pid : Pid} (h : pidOfBits w = some pid) : pidBits pid = w := by
  refine Eq.trans ?_ (ofNat_fields w)
  simp only [pidOfBits] at h
  split_ifs at h with hkind hunit hkind hunit hkind hunit hkind hunit
  all_goals obtain ⟨p, hp, rfl⟩ := Option.map_eq_some_iff.mp h
  · rw [pidBits, oscIdx_of_getElem? hp, hkind]
  · rw [pidBits, fltIdx_of_getElem? hp, hkind]
  · rw [pidBits, envIdx_of_getElem? hp, hkind]
  · rw [pidBits, glbIdx_of_getElem? hp, hkind, hunit]

theorem pidOfBits_eq_some_iff (w : BitVec 16) (pid : Pid) : pidOfBits w = some pid ↔ pidBits pid = w :=
  ⟨pidBits_of_pidOfBits, fun h => h ▸ pidOfBits_pidBits pid⟩

/-- Every identifier names its source. -/
theorem sourceOfBits_sourceBits (x : Source) : sourceOfBits (sourceBits x) = some x := by
  cases x with
  | aftertouch | pitchWheel | modWheel | velocity => rfl
  | glfo i | lfo i => revert i; decide
  | osc k | env k => revert k; decide

theorem sourceOfBits_eq_some_iff (w : BitVec 8) (x : Source) : sourceOfBits w = some x ↔ sourceBits x = w :=
  ⟨fun h => by simpa using List.find?_some h, fun h => h ▸ sourceOfBits_sourceBits x⟩

/-- The parameters with a register in each voice are the local modulatable ones (R29). -/
theorem effIndex_isSome (pid : Pid) : (effIndex pid).isSome = (isModulatable pid && !isGlobal pid) := by
  cases pid with
  | osc k p => cases p <;> rfl
  | flt f p => cases p <;> rfl
  | env e p => rfl
  | glb p => cases p <;> rfl

/-- Settles O23: both decodings are inverse to the identifier tables, and the counts are those of the list of all
parameters. -/
theorem identifierMapsAreExact : Obligations.IdentifierMapsAreExact :=
  ⟨pidOfBits_eq_some_iff, sourceOfBits_eq_some_iff, by decide, by decide, mem_allPids, allPids_nodup, by decide,
    by decide, effIndex_isSome⟩

/-! ### Which command writes a register (R21, R31, R33) -/

/-- The command writes base register `pid` if it is performed (R77). -/
def NamesParam (pid : Pid) : Instr → Prop
  | .writeParam bits _ => pidOfBits bits = some pid
  | .nop | .noteOn .. | .noteOff .. | .steal .. | .slotRoute .. | .slotIntensity .. | .setGsrc .. | .setLsrc .. => False

/-- The command writes slot `j` if it is performed (R81, R82). -/
def NamesSlot (j : Nat) : Instr → Prop
  | .slotRoute slot _ _ _ | .slotIntensity slot _ => slot.toNat = j
  | .nop | .writeParam .. | .noteOn .. | .noteOff .. | .steal .. | .setGsrc .. | .setLsrc .. => False

/-- The command writes global source input `j` if it is performed (R83). -/
def NamesGsrc (j : Fin 5) : Instr → Prop
  | .setGsrc src _ => src.toNat = j.val + 1
  | .nop | .writeParam .. | .noteOn .. | .noteOff .. | .steal .. | .slotRoute .. | .slotIntensity .. | .setLsrc .. => False

/-- The command writes local source input `j` of voice `v` if it is performed (R84). -/
def NamesLsrc (v : Fin 32) (j : Fin 2) : Instr → Prop
  | .setLsrc voice src _ => voice.toNat = v.val ∧ src.toNat = 0x18 + j.val
  | .nop | .writeParam .. | .noteOn .. | .noteOff .. | .steal .. | .slotRoute .. | .slotIntensity .. | .setGsrc .. => False

theorem checkParam_ok {bits : BitVec 16} {pid : Pid} (h : checkParam bits = .ok pid) : pidOfBits bits = some pid := by
  unfold checkParam at h
  split at h
  · cases h; assumption
  · cases h

theorem checkVoice_ok {voice : BitVec 8} {v : Fin 32} (h : checkVoice voice = .ok v) : voice.toNat = v.val := by
  unfold checkVoice at h
  split at h
  · cases h; rfl
  · cases h

theorem checkSlot_ok {n : Nat} {slot : BitVec 8} {j : Nat} (h : checkSlot n slot = .ok j) : slot.toNat = j := by
  unfold checkSlot at h
  split at h
  · cases h; rfl
  · cases h

theorem checkGsrc_ok {src : BitVec 8} {j : Fin 5} (h : checkGsrc src = .ok j) : src.toNat = j.val + 1 := by
  unfold checkGsrc gsrcIndex at h
  split at h
  next hj =>
    cases h
    split at hj
    · cases hj; simp only; omega
    · cases hj
  · cases h

theorem checkLsrc_ok {src : BitVec 8} {j : Fin 2} (h : checkLsrc src = .ok j) : src.toNat = 0x18 + j.val := by
  unfold checkLsrc lsrcIndex at h
  split at h
  next hj =>
    cases h
    split at hj
    next hsrc => cases hj; rw [hsrc]; rfl
    · split at hj
      next hsrc => cases hj; rw [hsrc]; rfl
      · cases hj
  · cases h

/-- What a rejection and the effect of a command keep, the command keeps. -/
theorem performed_keeps {α β : Type} (obs : State → β) {k : Except Cause α} {f : α → State → State} {s : State}
    (rejection : ∀ c, obs (reject c s) = obs s) (effect : ∀ a, k = .ok a → obs (f a s) = obs s) :
    obs (performed k f s) = obs s := by
  obtain ⟨a, ha, e⟩ | ⟨c, -, e⟩ := performed_cases k f s <;> rw [e]
  · exact effect a ha
  · exact rejection c

theorem exec_param {pid : Pid} {i : Instr} {s t : State} (h : exec i s = .next t) (hi : ¬ NamesParam pid i) :
    readParam t.p pid = readParam s.p pid := by
  cases i with
  | nop => cases h; rfl
  | writeParam bits val =>
    cases h
    refine performed_keeps (fun s => readParam s.p pid) (fun _ => rfl) fun a ha => ?_
    obtain ⟨p, hp, ha⟩ := bind_ok ha
    obtain ⟨x, -, ha⟩ := bind_ok ha
    cases ha
    have hne : pid ≠ p := fun e => hi (e ▸ checkParam_ok hp)
    simp only [readParam_writeParamReg, if_neg hne]
  | noteOn | noteOff | steal | slotRoute | slotIntensity | setGsrc | setLsrc =>
    cases h
    exact performed_keeps (fun s => readParam s.p pid) (fun _ => rfl) (fun _ _ => rfl)

/-- Replacing one slot leaves the others. -/
theorem updateSlot_getElem?_ne {k j : Nat} (hne : k ≠ j) (f : Slot → Slot) (s : State) :
    (updateSlot k f s).slots[j]? = s.slots[j]? := by
  rw [updateSlot_slots, List.getElem?_modify_ne _ _ hne]

theorem exec_slot {j : Nat} {i : Instr} {s t : State} (h : exec i s = .next t) (hi : ¬ NamesSlot j i) :
    t.slots[j]? = s.slots[j]? := by
  cases i with
  | nop => cases h; rfl
  | slotRoute slot en src tgt =>
    cases h
    refine performed_keeps (fun s => s.slots[j]?) (fun _ => rfl) fun a ha => ?_
    obtain ⟨k, hk, ha⟩ := bind_ok ha
    obtain ⟨x, -, ha⟩ := bind_ok ha
    obtain ⟨p, -, ha⟩ := bind_ok ha
    obtain ⟨u, -, ha⟩ := bind_ok ha
    cases ha
    exact updateSlot_getElem?_ne (fun e => hi ((checkSlot_ok hk).trans e)) _ _
  | slotIntensity slot val =>
    cases h
    refine performed_keeps (fun s => s.slots[j]?) (fun _ => rfl) fun a ha => ?_
    obtain ⟨k, hk, ha⟩ := bind_ok ha
    obtain ⟨x, -, ha⟩ := bind_ok ha
    cases ha
    exact updateSlot_getElem?_ne (fun e => hi ((checkSlot_ok hk).trans e)) _ _
  | writeParam | noteOn | noteOff | steal | setGsrc | setLsrc =>
    cases h
    exact performed_keeps (fun s => s.slots[j]?) (fun _ => rfl) (fun _ _ => rfl)

theorem exec_gsrc {j : Fin 5} {i : Instr} {s t : State} (h : exec i s = .next t) (hi : ¬ NamesGsrc j i) :
    t.gsrc[j.val] = s.gsrc[j.val] := by
  cases i with
  | nop => cases h; rfl
  | setGsrc src val =>
    cases h
    refine performed_keeps (fun s => s.gsrc[j.val]) (fun _ => rfl) fun a ha => ?_
    obtain ⟨k, hk, ha⟩ := bind_ok ha
    obtain ⟨x, -, ha⟩ := bind_ok ha
    cases ha
    have hne : k.val ≠ j.val := fun e => hi ((checkGsrc_ok hk).trans (by rw [e]))
    simp only [writeGsrc_gsrc, Vector.getElem_set_ne _ _ hne]
  | writeParam | noteOn | noteOff | steal | slotRoute | slotIntensity | setLsrc =>
    cases h
    exact performed_keeps (fun s => s.gsrc[j.val]) (fun _ => rfl) (fun _ _ => rfl)

/-- An update of a voice that keeps its LFO inputs keeps all LFO inputs. -/
theorem updateVoice_lsrc (u : Fin 32) {f : Voice → Voice} (hf : ∀ vc, (f vc).lsrc = vc.lsrc) (v : Fin 32) (s : State) :
    (updateVoice u f s).voices[v.val].lsrc = s.voices[v.val].lsrc := by
  rw [updateVoice_getElem]
  split
  next hv => rw [hf, hv]
  · rfl

theorem exec_lsrc {v : Fin 32} {j : Fin 2} {i : Instr} {s t : State} (h : exec i s = .next t) (hi : ¬ NamesLsrc v j i) :
    t.voices[v.val].lsrc[j.val] = s.voices[v.val].lsrc[j.val] := by
  cases i with
  | nop => cases h; rfl
  | noteOn voice note vel =>
    cases h
    exact performed_keeps (fun s => s.voices[v.val].lsrc[j.val]) (fun _ => rfl)
      fun a _ => by simp only [updateVoice_lsrc a.1 (noteOnVoice_lsrc a.2.1 a.2.2)]
  | noteOff voice =>
    cases h
    exact performed_keeps (fun s => s.voices[v.val].lsrc[j.val]) (fun _ => rfl)
      fun a _ => by simp only [updateVoice_lsrc a noteOffVoice_lsrc]
  | steal voice note vel =>
    cases h
    exact performed_keeps (fun s => s.voices[v.val].lsrc[j.val]) (fun _ => rfl)
      fun a _ => by simp only [updateVoice_lsrc a.1 (stealVoice_lsrc s.cfg a.2.1 a.2.2)]
  | setLsrc voice src val =>
    cases h
    refine performed_keeps (fun s => s.voices[v.val].lsrc[j.val]) (fun _ => rfl) fun a ha => ?_
    obtain ⟨u, hu, ha⟩ := bind_ok ha
    obtain ⟨k, hk, ha⟩ := bind_ok ha
    obtain ⟨x, -, ha⟩ := bind_ok ha
    cases ha
    simp only [updateVoice_getElem]
    split
    next hv =>
      have hne : k.val ≠ j.val := fun e => hi ⟨hv ▸ checkVoice_ok hu, e ▸ checkLsrc_ok hk⟩
      simp only [Vector.getElem_set_ne _ _ hne, hv]
    · rfl
  | writeParam | slotRoute | slotIntensity | setGsrc =>
    cases h
    exact performed_keeps (fun s => s.voices[v.val].lsrc[j.val]) (fun _ => rfl) (fun _ _ => rfl)

section
variable {β : Type} {obs : State → β} {Names : Instr → Prop}

/-- If what is observed changes while words are applied, one of them decodes to a command that names it. -/
theorem applyAll_names (rejection : ∀ c s, obs (reject c s) = obs s)
    (command : ∀ {i s t}, exec i s = .next t → ¬ Names i → obs t = obs s) {ws : List Word} :
    ∀ {s t : State}, applyAll ws s = .next t → obs t ≠ obs s → ∃ w ∈ ws, ∃ i, decodeWord w = .ok i ∧ Names i := by
  induction ws with
  | nil => intro s t h hne; cases h; exact absurd rfl hne
  | cons w ws ih =>
    intro s t h hne
    obtain ⟨u, hu⟩ := apply_next w s
    simp only [applyAll, hu] at h
    by_cases hrest : obs t = obs u
    · rw [hrest] at hne
      obtain ⟨i, hdec, hi⟩ | ⟨c, -, rfl⟩ := apply_cases hu
      · exact ⟨w, List.mem_cons_self, i, hdec, by_contra fun hn => hne (command hi hn)⟩
      · exact absurd (rejection c s) hne
    · obtain ⟨w', hw', hn⟩ := ih h hrest
      exact ⟨w', List.mem_cons_of_mem _ hw', hn⟩

/-- If a step changes what is observed, the clock ticks and a queued word decodes to a command that names it: for an
observation that neither the moves, the queue and the rejections nor a rendering change. -/
theorem step_names (host : ∀ s rest, obs { s with host := rest } = obs s) (push : ∀ w s, obs (queuePush w s) = obs s)
    (clear : ∀ s, obs { s with q := [] } = obs s) (rejection : ∀ c s, obs (reject c s) = obs s)
    (command : ∀ {i s t}, exec i s = .next t → ¬ Names i → obs t = obs s)
    (render : ∀ s, obs (renderStep s) = obs s) {s t : State} (h : step s = .next t) (hne : obs t ≠ obs s) :
    ticks s = true ∧ ∃ w ∈ s.q, ∃ i, decodeWord w = .ok i ∧ Names i := by
  obtain ⟨w, rest, -, rfl⟩ | ⟨bs, got, rest, -, rfl⟩ | ⟨m, rest, -, -, rfl⟩ | ⟨hticks, u, hu, rfl⟩ := step_cases h
  · exact absurd ((push _ _).trans (host s rest)) hne
  · obtain e | e := queueTransport_cases bs got { s with host := rest } <;> rw [e] at hne
    · exact absurd ((push _ _).trans (host s rest)) hne
    · exact absurd (host s rest) hne
  · exact absurd (host s rest) hne
  · refine ⟨hticks, applyAll_names rejection command hu fun e => hne ?_⟩
    exact (render u).trans (e.trans ((clear _).trans (host s _)))

end

/-- Settles O26, register file by register file: only the command that names a register changes it. -/
theorem onlyNamedCommandsWrite : Obligations.OnlyNamedCommandsWrite := by
  intro s t h
  refine ⟨fun pid hne => ?_, fun j hne => ?_, fun j hne => ?_, fun v j hne => ?_⟩
  · obtain ⟨hticks, w, hw, i, hdec, hn⟩ := step_names (obs := fun s => readParam s.p pid) (fun _ _ => rfl)
      (fun w s => by rw [queuePush_p]) (fun _ => rfl) (fun _ _ => rfl) exec_param (fun s => by rw [renderStep_p]) h hne
    cases i with
    | writeParam bits val => exact ⟨hticks, w, hw, bits, val, hdec, hn⟩
    | nop | noteOn | noteOff | steal | slotRoute | slotIntensity | setGsrc | setLsrc => exact hn.elim
  · obtain ⟨hticks, w, hw, i, hdec, hn⟩ := step_names (obs := fun s => s.slots[j]?) (fun _ _ => rfl)
      (fun w s => by rw [queuePush_slots]) (fun _ => rfl) (fun _ _ => rfl) exec_slot (fun s => by rw [renderStep_slots])
      h hne
    cases i with
    | slotRoute slot en src tgt => exact ⟨hticks, w, hw, .inl ⟨slot, en, src, tgt, hdec, hn⟩⟩
    | slotIntensity slot val => exact ⟨hticks, w, hw, .inr ⟨slot, val, hdec, hn⟩⟩
    | nop | writeParam | noteOn | noteOff | steal | setGsrc | setLsrc => exact hn.elim
  · obtain ⟨hticks, w, hw, i, hdec, hn⟩ := step_names (obs := fun s => s.gsrc[j.val]) (fun _ _ => rfl)
      (fun w s => by simp only [queuePush_gsrc]) (fun _ => rfl) (fun _ _ => rfl) exec_gsrc
      (fun s => by simp only [renderStep_gsrc]) h hne
    cases i with
    | setGsrc src val => exact ⟨hticks, w, hw, src, val, hdec, hn⟩
    | nop | writeParam | noteOn | noteOff | steal | slotRoute | slotIntensity | setLsrc => exact hn.elim
  · obtain ⟨hticks, w, hw, i, hdec, hn⟩ := step_names (obs := fun s => s.voices[v.val].lsrc[j.val]) (fun _ _ => rfl)
      (fun w s => by simp only [queuePush_voices]) (fun _ => rfl) (fun _ _ => rfl) exec_lsrc
      (fun s => by simp only [renderStep_lsrc]) h hne
    cases i with
    | setLsrc voice src val => exact ⟨hticks, w, hw, voice, src, val, hdec, hn⟩
    | nop | writeParam | noteOn | noteOff | steal | slotRoute | slotIntensity | setGsrc => exact hn.elim

end Sys2Proof.Machine
end

section
namespace Sys2Proof.Machine

/-! ## The block counter, the frame of a rendering and the snapshot -/

/-- A step that is no clock tick makes a push, or uses up a move and changes nothing else. -/
theorem step_of_not_ticks {s t : State} (hticks : ticks s = false) (h : step s = .next t) :
    (∃ w rest, t = queuePush w { s with host := rest }) ∨ ∃ rest, t = { s with host := rest } := by
  obtain ⟨w, rest, -, rfl⟩ | ⟨bs, got, rest, -, rfl⟩ | ⟨m, rest, -, -, rfl⟩ | ⟨ht, -⟩ := step_cases h
  · exact .inl ⟨w, rest, rfl⟩
  · obtain e | e := queueTransport_cases bs got { s with host := rest } <;> rw [e]
    · exact .inl ⟨_, rest, rfl⟩
    · exact .inr ⟨rest, rfl⟩
  · exact .inr ⟨rest, rfl⟩
  · rw [hticks] at ht; cases ht

/-- A push counts no block (R54). -/
theorem queuePush_block (w : Word) (s : State) : (queuePush w s).cnt.block = s.cnt.block := by
  rw [queuePush_cnt]
  split <;> rfl

theorem step_block {s t : State} (h : step s = .next t) :
    t.cnt.block = if ticks s = true then s.cnt.block + 1 else s.cnt.block := by
  cases hticks : ticks s with
  | true =>
    obtain ⟨u, hu, rfl⟩ := step_of_ticks hticks h
    obtain ⟨-, -, -, -, -, -, -, hblock, -⟩ := queueDrain_keeps hu
    rw [renderStep_cnt, if_pos rfl, hblock]
    rfl
  | false =>
    rw [if_neg Bool.false_ne_true]
    obtain ⟨w, rest, rfl⟩ | ⟨rest, rfl⟩ := step_of_not_ticks hticks h
    · exact queuePush_block w _
    · rfl

/-- A rendering as the update it is: the fields it may write at what it leaves in them, all others as they were (R86). -/
theorem renderStep_eq (u : State) :
    renderStep u = { u with
      voices := (renderStep u).voices, effVolume := (renderStep u).effVolume, out := (renderStep u).out
      snap := (renderStep u).snap, status := (renderStep u).status, draw := (renderStep u).draw
      cnt := { u.cnt with
        block := (renderStep u).cnt.block, nan := (renderStep u).cnt.nan
        fallback := (renderStep u).cnt.fallback } } := by
  have hcnt : (renderStep u).cnt = { u.cnt with
      block := (renderStep u).cnt.block, nan := (renderStep u).cnt.nan
      fallback := (renderStep u).cnt.fallback } := by rw [renderStep_cnt]
  rw [← hcnt, ← renderStep_cfg u, ← renderStep_p u, ← renderStep_slots u, ← renderStep_gsrc u, ← renderStep_q u,
    ← renderStep_host u]

/-- A rendering sets STATUS bits 2 and 3 only (R39). -/
theorem renderStep_status_low (u : State) : (renderStep u).status &&& 0b0011#4 = u.status &&& 0b0011#4 := by
  rw [renderStep_status]
  generalize u.status = x
  split <;> split <;> revert x <;> decide

/-- Settles O27: only the block's end counts a block, and a rendering is the update of `renderStep_eq`. -/
theorem blockCounterCountsTicks : Obligations.BlockCounterCountsTicks := by
  refine ⟨fun s t h => step_block h, fun s u t hticks hu h => ?_⟩
  obtain ⟨u', hu', rfl⟩ := step_of_ticks hticks h
  obtain rfl : u' = u := next_inj (hu.symm.trans hu')
  obtain ⟨-, -, -, hq, -⟩ := queueDrain_keeps hu
  exact ⟨renderStep_eq u', renderStep_status_low u', by rw [renderStep_q, hq], fun v i => by rw [renderStep_lsrc]⟩

/-! ### The snapshot (R42, R91) -/

/-- The elements of a group that satisfy a test are as many as the indices of such elements. -/
theorem length_filter_toList {α : Type} {n : Nat} (f : α → Bool) (xs : Vector α n) :
    (xs.toList.filter f).length = ((List.finRange n).filter (fun i => f xs[i.val])).length := by
  have hlist : xs.toList = (List.finRange n).map (fun i => xs[i.val]) := by
    refine List.ext_getElem (by simp) fun i h h' => ?_
    simp
  rw [hlist, List.filter_map, List.length_map]
  rfl

/-- Settles O41: a rendering ends with the snapshot of its own result, and a push or a read leaves the snapshot. -/
theorem snapshotCopiesState : Obligations.SnapshotCopiesState := by
  refine fun s t h => ⟨fun hticks => ?_, fun hticks => ?_⟩
  · obtain ⟨w, rest, rfl⟩ | ⟨rest, rfl⟩ := step_of_not_ticks hticks h
    · rw [queuePush_snap]
    · rfl
  · obtain ⟨u, -, rfl⟩ := step_of_ticks hticks h
    obtain ⟨hcnt, hstatus, hvolume, hactive, hstages, hlevels⟩ := renderStep_snap u
    refine ⟨hcnt, hstatus, hvolume, fun v => ⟨?_, fun e => ?_⟩, ?_⟩
    · rw [hstages, getElem_vmap]
    · rw [hlevels, getElem_vmap, getElem_vmap]
    · rw [hactive, activeCount, length_filter_toList]
      refine congrArg _ (List.filter_congr fun v _ => ?_)
      simp [bne, beq_eq_decide]

end Sys2Proof.Machine
end

section
namespace Sys2Proof.Machine

/-! ## The queue: pushes, drains and the host's moves

### Pushes (R54, R162) -/

/-- A queue that is not full takes the word. -/
theorem queuePush_of_lt (w : Word) {s : State} (h : s.q.length < s.cfg.qcap) :
    queuePush w s = { s with q := s.q ++ [w] } := if_pos h

/-- A full queue loses its oldest word for the new one, and the loss is counted and flagged. -/
theorem queuePush_of_le (w : Word) {s : State} (h : s.cfg.qcap ≤ s.q.length) :
    queuePush w s = { s with q := s.q.tail ++ [w], cnt := { s.cnt with drop := s.cnt.drop + 1 }
                             status := s.status ||| 0b0001#4 } := if_neg h.not_gt

/-- Settles O9: the move is the push of its word, whose two cases are `queuePush_of_lt` and `queuePush_of_le`. -/
theorem pushEffect : Obligations.PushEffect := by
  intro w s rest hhost
  have hstep : step s = .next (queuePush w { s with host := rest }) := step_cons hhost
  refine ⟨fun h => hstep.trans ?_, fun h => hstep.trans ?_⟩
  · exact congrArg _ (queuePush_of_lt w h)
  · exact congrArg _ (queuePush_of_le w h)

/-- Settles O10, by induction on the words pushed: the first of them is appended, or replaces the oldest word of a full
queue, which is then one of the words lost. -/
theorem overflowKeepsNewest : Obligations.OverflowKeepsNewest := by
  intro ws
  induction ws with
  | nil =>
    intro s hcap hlen
    rw [List.foldl_nil, List.append_nil, if_pos hlen, Nat.sub_eq_zero_of_le hlen]
    simp
  | cons w ws ih =>
    intro s hcap hlen
    have hlen' : (queuePush w s).q.length ≤ s.cfg.qcap := queuePush_length_le w hcap hlen
    rw [List.foldl_cons, ih (queuePush w s) (by rwa [queuePush_cfg]) (by rwa [queuePush_cfg])]
    obtain hlt | hfull := Nat.lt_or_ge s.q.length s.cfg.qcap
    · rw [queuePush_of_lt w hlt]
      simp only [List.append_assoc, List.singleton_append]
    · obtain ⟨x, q, hq⟩ := List.exists_cons_of_length_pos (hcap.trans hfull)
      have hle : s.cfg.qcap ≤ (q ++ w :: ws).length := by
        rw [hq] at hfull
        simp only [List.length_cons, List.length_append] at hfull ⊢
        omega
      have hover : ¬ (x :: (q ++ w :: ws)).length ≤ s.cfg.qcap := (Nat.lt_succ_of_le hle).not_ge
      have hlost : (x :: (q ++ w :: ws)).length - s.cfg.qcap = (q ++ w :: ws).length - s.cfg.qcap + 1 :=
        Nat.succ_sub hle
      have hcount (d : BitVec 32) (n : Nat) : d + 1 + BitVec.ofNat 32 n = d + BitVec.ofNat 32 (n + 1) := by
        rw [BitVec.ofNat_add, add_assoc, add_comm (1 : BitVec 32)]
        rfl
      rw [queuePush_of_le w hfull]
      simp only [hq, List.tail_cons, List.append_assoc, List.nil_append, List.cons_append, List.drop_succ_cons,
        if_neg hover, hlost, hcount, BitVec.or_assoc, BitVec.or_self, ite_self]

/-! ### The host's moves (R51, R58) -/

/-- A listed move is made where a tick would be: with the move used up. -/
theorem atTick_of_cons {s : State} {m : HostMove} {rest : List HostMove} (h : s.host = m :: rest) :
    atTick s = { s with host := rest } := by rw [atTick, h, List.tail_cons]

/-- Every step uses up the move it makes. -/
theorem step_host {s t : State} (h : step s = .next t) : t.host = s.host.tail := by
  obtain ⟨w, rest, hh, rfl⟩ | ⟨bs, got, rest, hh, rfl⟩ | ⟨m, rest, -, hh, rfl⟩ | ⟨-, u, hu, rfl⟩ := step_cases h
  · rw [queuePush_host, hh, List.tail_cons]
  · obtain e | e := queueTransport_cases bs got { s with host := rest } <;> rw [e, hh]
    · exact queuePush_host _ _
    · rfl
  · rw [hh, List.tail_cons]
  · obtain ⟨-, hhost, -⟩ := queueDrain_keeps hu
    rw [renderStep_host, hhost, atTick]

/-- A read uses up its move and changes nothing else (R51). -/
theorem step_of_read {s : State} (h : s.host.head? = some .readSnap ∨ s.host.head? = some .readOut) :
    step s = .next (atTick s) := by
  obtain h | h := h <;> obtain ⟨rest, hh⟩ := List.head?_eq_some_iff.mp h
  · rw [step_cons hh, hostMove, atTick_of_cons hh]
  · rw [step_cons hh, hostMove, atTick_of_cons hh]

/-- A push writes the queue, CNT.DROP and STATUS only (R54). -/
theorem queuePush_frame (w : Word) (s : State) :
    { queuePush w s with q := s.q, cnt := { (queuePush w s).cnt with drop := s.cnt.drop }, status := s.status } = s := by
  obtain h | h := Nat.lt_or_ge s.q.length s.cfg.qcap
  · rw [queuePush_of_lt w h]
  · rw [queuePush_of_le w h]

/-- Settles O11: a step that is no tick is a push or a read, made with its move used up. -/
theorem hostMovesTouchOnlyTheQueue : Obligations.HostMovesTouchOnlyTheQueue := by
  intro s t hticks h
  refine ⟨?_, step_host h, ?_, fun hread => next_inj ((step_of_read hread).symm.trans h)⟩
  · obtain ⟨w, rest, rfl⟩ | ⟨rest, rfl⟩ := step_of_not_ticks hticks h
    · exact congrArg (fun u : State => { u with host := s.host }) (queuePush_frame w { s with host := rest })
    · rfl
  · obtain ⟨w, rest, rfl⟩ | ⟨rest, rfl⟩ := step_of_not_ticks hticks h
    · refine ⟨!decide (s.q.length < s.cfg.qcap), ?_⟩
      rw [queuePush_status]
      by_cases hlt : s.q.length < s.cfg.qcap <;> simp [hlt]
    · exact ⟨false, BitVec.or_zero.symm⟩

/-! ### Drains and ticks (R55 to R57, R86) -/

/-- One word applied is a list of one word applied. -/
theorem applyAll_singleton (w : Word) (s : State) : applyAll [w] s = apply w s := by
  obtain ⟨t, ht⟩ := apply_next w s
  simp only [applyAll, ht]

/-- Words applied after others are applied to what those leave. -/
theorem applyAll_append {ws : List Word} (vs : List Word) {s u : State} (h : applyAll ws s = .next u) :
    applyAll (ws ++ vs) s = applyAll vs u := by
  induction ws generalizing s with
  | nil => rw [List.nil_append, next_inj h]
  | cons w ws ih =>
    obtain ⟨t, ht⟩ := apply_next w s
    simp only [List.cons_append, applyAll, ht] at h ⊢
    exact ih h

/-- A clock tick is a block step of the state with the tick used up. -/
theorem step_eq_blockStep {s : State} (h : ticks s = true) : step s = blockStep (atTick s) := by
  cases hh : s.host with
  | nil =>
    have : atTick s = s := by rw [atTick, hh, List.tail_nil, ← hh]
    rw [step_nil hh, this]
  | cons m rest =>
    cases m with
    | tick => rw [step_cons hh, atTick_of_cons hh]; rfl
    | push | transport | readSnap | readOut => simp [ticks, hh] at h

/-- A clock tick renders what its drain leaves. -/
theorem step_of_drain {s u : State} (h : ticks s = true) (hu : queueDrain (atTick s) = .next u) :
    step s = .next (renderStep u) := by
  rw [step_eq_blockStep h, blockStep, hu]

/-- Settles O7: a drain applies the list of queued words, and a pushed word is the last of that list. -/
theorem drainIsSequential : Obligations.DrainIsSequential := by
  refine ⟨fun s hq => ?_, fun s u hu => ⟨?_, fun w hlt => ?_, ?_⟩⟩
  · rw [queueDrain, hq, applyAll, ← hq]
  · obtain ⟨-, -, -, hq, -⟩ := queueDrain_keeps hu
    exact hq
  · rw [queuePush_of_lt w hlt, queueDrain, ← applyAll_singleton]
    exact applyAll_append [w] hu
  · rintro s' hticks rfl
    exact step_of_drain hticks hu

/-! ### A step with one queued word (R75, R86) -/

/-- A tick with one queued word performs its command on the emptied queue, then renders. -/
theorem step_of_one_word {s : State} {w : Word} {i : Instr} (hticks : ticks s = true) (hq : s.q = [w])
    (hdec : decodeWord w = .ok i) :
    ∃ u, exec i { s with q := [], host := s.host.tail } = .next u ∧ step s = .next (renderStep u) := by
  obtain ⟨u, hu⟩ := exec_next i { s with q := [], host := s.host.tail }
  refine ⟨u, hu, step_of_drain hticks ?_⟩
  calc queueDrain (atTick s) = applyAll [w] { s with q := [], host := s.host.tail } := by rw [queueDrain, atTick, hq]
    _ = exec i { s with q := [], host := s.host.tail } := by rw [applyAll_singleton, apply, hdec]
    _ = .next u := hu

end Sys2Proof.Machine
end

section
namespace Sys2Proof.Machine

/-! ## The byte transport (R49, R50) -/

/-- The 8 bytes of a word at the head of a stream are that word. -/
@[simp] theorem wordsOfBytes_bytesOfWord_append (w : Word) (bs : List Byte) :
    wordsOfBytes (bytesOfWord w ++ bs) = w :: wordsOfBytes bs :=
  congrArg (· :: wordsOfBytes bs) (wordOfBytes_wordBytes w)

/-- Fewer than 8 bytes hold no word. -/
theorem wordsOfBytes_of_length_lt {bs : List Byte} (h : bs.length < 8) : wordsOfBytes bs = [] := by
  unfold wordsOfBytes
  split
  · simp only [List.length_cons] at h; omega
  · rfl

/-- The whole words of a stream are read in order, and a part of a word at its end is not. -/
theorem wordsOfBytes_flatMap_append (ws : List Word) {bs : List Byte} (h : bs.length < 8) :
    wordsOfBytes (ws.flatMap bytesOfWord ++ bs) = ws := by
  induction ws with
  | nil => exact wordsOfBytes_of_length_lt h
  | cons w ws ih => rw [List.flatMap_cons, List.append_assoc, wordsOfBytes_bytesOfWord_append, ih]

/-- The bits of a table word are decoded as that word. -/
theorem decodeTableWord_eq (nbits w : Nat) :
    decodeTableWord nbits w = (decodeWord (BitVec.ofNat 64 (w % 2 ^ nbits))).toOption := by
  rw [decodeTableWord, decodeBytes, ← List.append_nil (bytesOfWord _), wordsOfBytes_bytesOfWord_append]

/-- A table word stands for a command exactly if its word decodes to it. -/
theorem decodeTableWord_eq_some {nbits w : Nat} {i : Instr} :
    decodeTableWord nbits w = some i ↔ decodeWord (BitVec.ofNat 64 (w % 2 ^ nbits)) = .ok i := by
  rw [decodeTableWord_eq]
  cases decodeWord (BitVec.ofNat 64 (w % 2 ^ nbits)) <;> simp [Except.toOption]

/-- Settles O6: the second clause is the first for the word that `withFetchWord` places. -/
theorem stepRunsDecodedInstruction : Obligations.StepRunsDecodedInstruction :=
  ⟨fun _ _ _ => step_of_one_word, fun s nbits w _ h =>
    step_of_one_word (s := s.withFetchWord nbits w) rfl rfl (decodeTableWord_eq_some.mp h)⟩

/-- The 8 bytes of a word are one push of it (R58). -/
theorem step_of_transport {w : Word} {s : State} {rest : List HostMove}
    (h : s.host = .transport (wordBytes w) 8 :: rest) : step s = .next (queuePush w { s with host := rest }) := by
  rw [step_cons h, hostMove, queueTransport_all]

/-- A run begins with a step. -/
theorem run_succ {M : Host.Core} {s t : M.State} (h : M.step s = .next t) (k : Nat) : M.run (k + 1) s = M.run k t := by
  rw [Host.Core.run, h]

/-- Words sent one after the other are pushed in order, one a step. -/
theorem run_transport (ws : List Word) (s : State) (rest : List HostMove)
    (h : s.host = ws.map (fun w => .transport (wordBytes w) 8) ++ rest) :
    core.run ws.length s = .next (ws.foldl (fun s w => queuePush w s) { s with host := rest } : State) := by
  induction ws generalizing s with
  | nil => subst h; rfl
  | cons w ws ih =>
    rw [List.length_cons, run_succ (M := core) (step_of_transport h), ih _ (queuePush_host w _), List.foldl_cons]
    exact congrArg (fun u : State => Host.Outcome.next (ws.foldl (fun s w => queuePush w s) u))
      (queuePush_with_host w _ rest).symm

/-- Settles O5: the stream by induction on its words, the host's steps by what each move of bytes does. -/
theorem transportDeliversWords : Obligations.TransportDeliversWords := by
  refine ⟨fun w b => ?_, fun ws bs => wordsOfBytes_flatMap_append ws, fun w s rest => step_of_transport,
    fun bs got s rest hgot hhost => ?_, run_transport⟩
  · fin_cases b <;> rfl
  · rw [step_cons hhost, hostMove, queueTransport_part bs hgot]

end Sys2Proof.Machine
end

section
namespace Sys2Proof.Machine

/-! ## The encoding (R63 to R74)

### Fields of a word (R64, R65) -/

theorem getLsbD_place {n : Nat} (lo : Nat) (x : BitVec n) (j : Nat) :
    (place lo x).getLsbD j = (decide (j < 64) && decide (lo ≤ j) && x.getLsbD (j - lo)) := by
  rw [place, BitVec.getLsbD_shiftLeft, BitVec.getLsbD_setWidth]
  by_cases h : j < 64
  · have h' : j - lo < 64 := by omega
    simp only [h, h', decide_true, Bool.true_and, ← decide_not, Nat.not_lt]
  · simp [h]

/-- A placed field is read where it was placed. -/
@[simp] theorem extractLsb'_place {n lo : Nat} (h : lo + n ≤ 64) (x : BitVec n) :
    (place lo x).extractLsb' lo n = x := by
  refine BitVec.eq_of_getLsbD_eq fun j hj => ?_
  have h64 : lo + j < 64 := by omega
  rw [BitVec.getLsbD_extractLsb', getLsbD_place, Nat.add_sub_cancel_left]
  simp [h64, hj]

/-- Bits outside a placed field are zero. -/
@[simp] theorem extractLsb'_place_of_disjoint {n m lo start : Nat} (h : start + n ≤ lo ∨ lo + m ≤ start)
    (x : BitVec m) :
    (place lo x).extractLsb' start n = 0 := by
  refine BitVec.eq_of_getLsbD_eq fun j hj => ?_
  rw [BitVec.getLsbD_extractLsb', getLsbD_place]
  obtain h | h := h
  · have hlo : ¬ lo ≤ start + j := by omega
    simp [hlo]
  · simp [BitVec.getLsbD_of_ge x (start + j - lo) (by omega)]

/-- A field of a word, put back where it was read, is the word masked with the field's bits. -/
theorem place_extractLsb' (w : Word) (lo n : Nat) :
    place lo (w.extractLsb' lo n) = w &&& place lo (BitVec.allOnes n) := by
  refine BitVec.eq_of_getLsbD_eq fun j hj => ?_
  rw [BitVec.getLsbD_and, getLsbD_place, getLsbD_place, BitVec.getLsbD_extractLsb', BitVec.getLsbD_allOnes]
  by_cases hlo : lo ≤ j
  · rw [Nat.add_sub_cancel' hlo, Bool.and_comm (w.getLsbD j), Bool.and_assoc, Bool.and_assoc, Bool.and_assoc]
  · simp [hlo]

/-- EN as a field of one bit. -/
theorem fieldEn_eq (w : Word) : fieldEn w = (w.extractLsb' 40 1).getLsbD 0 := by
  rw [BitVec.getLsbD_extractLsb', fieldEn]; rfl

/-- A word without bits in a mask loses none to it. -/
theorem and_not_eq_self {w rsv : Word} (h : w &&& rsv = 0) : w &&& ~~~rsv = w :=
  calc w &&& ~~~rsv = w &&& rsv ||| w &&& ~~~rsv := by rw [h]; exact BitVec.zero_or.symm
    _ = w := by rw [← BitVec.and_or_distrib_left, BitVec.or_not_self, BitVec.and_allOnes]

/-! ### The rows of the opcode map (R67) -/

/-- For a mask `rsv` of bits below the opcode: what a word has under both masks together is an opcode alone exactly if
the word has that opcode and no bit under `rsv`. -/
theorem and_opcode_or_eq_iff {rsv : Word} (hrsv : place 56 0xFF#8 &&& rsv = 0) (w : Word) (op : BitVec 8) :
    w &&& (place 56 0xFF#8 ||| rsv) = place 56 op ↔ opcodeOf w = op ∧ w &&& rsv = 0 := by
  have hand (v : Word) : v &&& place 56 0xFF#8 = place 56 (opcodeOf v) := (place_extractLsb' v 56 8).symm
  have hplace (op : BitVec 8) : opcodeOf (place 56 op) = op := extractLsb'_place (by omega) op
  constructor
  · intro h
    have hzero : w &&& rsv = 0 :=
      calc w &&& rsv = w &&& (place 56 0xFF#8 ||| rsv) &&& rsv := by
            rw [BitVec.and_assoc, BitVec.and_or_distrib_right, hrsv, BitVec.and_self]
            exact congrArg _ BitVec.zero_or.symm
        _ = place 56 op &&& place 56 0xFF#8 &&& rsv := by rw [h, hand, hplace]
        _ = 0 := by rw [BitVec.and_assoc, hrsv]; exact BitVec.and_zero
    have hop : place 56 (opcodeOf w) = place 56 op :=
      calc place 56 (opcodeOf w) = w &&& place 56 0xFF#8 ||| w &&& rsv := by
            rw [hand, hzero]; exact BitVec.or_zero.symm
        _ = place 56 op := by rw [← BitVec.and_or_distrib_left, h]
    exact ⟨by rw [← hplace (opcodeOf w), hop, hplace], hzero⟩
  · rintro ⟨rfl, h⟩
    rw [BitVec.and_or_distrib_left, h, hand]; exact BitVec.or_zero

/-- A word is in a row exactly if it has the row's opcode and its RSV bits are zero (R65, R67). -/
theorem inRow_iff {r : Row} (hr : r ∈ opcodeMap) (w : Word) :
    inRow r w = true ↔ opcodeOf w = opcodeOf r.value ∧ w &&& rsvBits (opcodeOf r.value) = 0 := by
  have hrow : ∀ r ∈ opcodeMap, r.mask = place 56 0xFF#8 ||| rsvBits (opcodeOf r.value) ∧
      r.value = place 56 (opcodeOf r.value) ∧ place 56 0xFF#8 &&& rsvBits (opcodeOf r.value) = 0 := by decide
  obtain ⟨hmask, hvalue, hrsv⟩ := hrow r hr
  rw [← and_opcode_or_eq_iff hrsv, ← hmask, ← hvalue, inRow, beq_iff_eq]

/-- A word in a row has an opcode up to 8 and no RSV bit of that opcode's format (R65, R67). -/
theorem formed_of_inRow {r : Row} (hr : r ∈ opcodeMap) {w : Word} (h : inRow r w = true) :
    (opcodeOf w).toNat ≤ 0x08 ∧ w &&& rsvBits (opcodeOf w) = 0 := by
  have hle : ∀ r ∈ opcodeMap, (opcodeOf r.value).toNat ≤ 0x08 := by decide
  obtain ⟨hop, hrsv⟩ := (inRow_iff hr w).mp h
  rw [hop]
  exact ⟨hle r hr, hrsv⟩

/-- The command whose format an opcode selects, with the operand fields of a word (R65, R66). -/
def readAs (op : BitVec 8) (w : Word) : Instr :=
  match op with
  | 0x01#8 => .writeParam (fieldPid w) (fieldVal w)
  | 0x02#8 => .noteOn (fieldA w) (fieldB w) (fieldC w)
  | 0x03#8 => .noteOff (fieldA w)
  | 0x04#8 => .steal (fieldA w) (fieldB w) (fieldC w)
  | 0x05#8 => .slotRoute (fieldA w) (fieldEn w) (fieldC w) (fieldTgt w)
  | 0x06#8 => .slotIntensity (fieldA w) (fieldVal w)
  | 0x07#8 => .setGsrc (fieldA w) (fieldVal w)
  | 0x08#8 => .setLsrc (fieldA w) (fieldB w) (fieldVal w)
  | _ => .nop

/-- The answers decoding may give for a word: its row's command, or for a word in no row the rejection of R69 or R70. -/
def DecodesTo (w : Word) (x : Except Cause Instr) : Prop :=
  (∃ r ∈ opcodeMap, inRow r w = true ∧ x = .ok (readAs (opcodeOf r.value) w)) ∨
  ((∀ r ∈ opcodeMap, inRow r w = false) ∧
    x = .error (if 0x09 ≤ (opcodeOf w).toNat then .badOpcode else .rsvNonzero))

/-- What decoding can answer: the rows are tried one after the other. -/
theorem decodeWord_cases (w : Word) : DecodesTo w (decodeWord w) := by
  unfold decodeWord
  refine iteInduction (fun h => .inl ⟨rowNop, by decide, h, rfl⟩) fun h0 => ?_
  refine iteInduction (fun h => .inl ⟨rowWriteParam, by decide, h, rfl⟩) fun h1 => ?_
  refine iteInduction (fun h => .inl ⟨rowNoteOn, by decide, h, rfl⟩) fun h2 => ?_
  refine iteInduction (fun h => .inl ⟨rowNoteOff, by decide, h, rfl⟩) fun h3 => ?_
  refine iteInduction (fun h => .inl ⟨rowSteal, by decide, h, rfl⟩) fun h4 => ?_
  refine iteInduction (fun h => .inl ⟨rowSlotRoute, by decide, h, rfl⟩) fun h5 => ?_
  refine iteInduction (fun h => .inl ⟨rowSlotIntensity, by decide, h, rfl⟩) fun h6 => ?_
  refine iteInduction (fun h => .inl ⟨rowSetGsrc, by decide, h, rfl⟩) fun h7 => ?_
  refine iteInduction (fun h => .inl ⟨rowSetLsrc, by decide, h, rfl⟩) fun h8 => ?_
  refine .inr ⟨?_, (apply_ite _ _ _ _).symm⟩
  simp [opcodeMap, h0, h1, h2, h3, h4, h5, h6, h7, h8]

/-- A word in a row decodes to the command of its opcode with the word's fields. -/
theorem decodeWord_of_inRow {r : Row} (hr : r ∈ opcodeMap) {w : Word} (h : inRow r w = true) :
    decodeWord w = .ok (readAs (opcodeOf w) w) := by
  obtain ⟨r', hr', h', hdec⟩ | ⟨hno, -⟩ := decodeWord_cases w
  · rw [hdec, ((inRow_iff hr' w).mp h').1]
  · rw [hno r hr] at h; cases h

/-! ### Encoding and decoding (R65 to R67) -/

/-- The row of a command is one of the map. -/
theorem rowOf_mem (i : Instr) : Laws.rowOf i ∈ opcodeMap := by
  cases i with
  | nop | writeParam | noteOn | noteOff | steal | slotRoute | slotIntensity | setGsrc | setLsrc =>
    simp only [Laws.rowOf]; decide

/-- The word of a command is in the command's row. -/
theorem inRow_encode (i : Instr) : inRow (Laws.rowOf i) (encode i) = true := by
  cases i with
  | nop => exact Laws.RowFit.nop
  | writeParam pid val => exact Laws.RowFit.writeParam pid val
  | noteOn voice note vel => exact Laws.RowFit.noteOn voice note vel
  | noteOff voice => exact Laws.RowFit.noteOff voice
  | steal voice note vel => exact Laws.RowFit.steal voice note vel
  | slotRoute slot en src tgt => exact Laws.RowFit.slotRoute slot en src tgt
  | slotIntensity slot val => exact Laws.RowFit.slotIntensity slot val
  | setGsrc src val => exact Laws.RowFit.setGsrc src val
  | setLsrc voice src val => exact Laws.RowFit.setLsrc voice src val

/-- The fields of a command's word are the command's operands. -/
theorem readAs_encode (i : Instr) : readAs (opcodeOf (encode i)) (encode i) = i := by
  cases i with
  | nop => rfl
  | writeParam | noteOn | noteOff | steal | slotRoute | slotIntensity | setGsrc | setLsrc =>
    simp [readAs, encode, opcodeOf, fieldA, fieldB, fieldC, fieldPid, fieldVal, fieldEn_eq, fieldTgt,
      BitVec.extractLsb'_or]

/-- Settles O1: the word of a command is in its row, and the fields are read where they were placed. -/
theorem decodeEncodeRoundTrip : Obligations.DecodeEncodeRoundTrip := fun i => by
  rw [decodeWord_of_inRow (rowOf_mem i) (inRow_encode i), readAs_encode]

/-- The operand fields of an opcode up to 8, put back where they were read, are the word without its RSV bits (R65). -/
theorem encode_readAs {w : Word} (h : (opcodeOf w).toNat ≤ 0x08) :
    encode (readAs (opcodeOf w) w) = w &&& ~~~rsvBits (opcodeOf w) := by
  have hop : place 56 (opcodeOf w) = w &&& place 56 (BitVec.allOnes 8) := place_extractLsb' w 56 8
  have hen : BitVec.ofBool (fieldEn w) = w.extractLsb' 40 1 := by
    rw [fieldEn_eq, ← BitVec.setWidth_one, BitVec.setWidth_eq]
  generalize opcodeOf w = op at h hop ⊢
  have hcases : op = 0x00#8 ∨ op = 0x01#8 ∨ op = 0x02#8 ∨ op = 0x03#8 ∨ op = 0x04#8 ∨ op = 0x05#8 ∨ op = 0x06#8 ∨
      op = 0x07#8 ∨ op = 0x08#8 := by bv_omega
  obtain rfl | rfl | rfl | rfl | rfl | rfl | rfl | rfl | rfl := hcases
  all_goals
    simp only [readAs, encode, hop, hen, fieldA, fieldB, fieldC, fieldPid, fieldTgt, fieldVal, place_extractLsb',
      ← BitVec.and_or_distrib_left]
    exact congrArg (w &&& ·) (by decide)

/-- Settles O2: a word that decodes is in a row, so that it has no RSV bits to lose. -/
theorem acceptedWordIsEncoding : Obligations.AcceptedWordIsEncoding := by
  intro w i h
  obtain ⟨r, hr, hrow, -⟩ | ⟨-, hdec⟩ := decodeWord_cases w
  · obtain ⟨hle, hrsv⟩ := formed_of_inRow hr hrow
    obtain rfl : readAs (opcodeOf w) w = i := Except.ok.inj ((decodeWord_of_inRow hr hrow).symm.trans h)
    rw [encode_readAs hle, and_not_eq_self hrsv]
  · rw [hdec] at h; cases h

/-! ### Malformed words (R69, R70) -/

/-- A word with a reserved opcode or an RSV bit set is rejected for it. -/
theorem decodeWord_of_malformed {w : Word} (h : 0x09 ≤ (opcodeOf w).toNat ∨ w &&& rsvBits (opcodeOf w) ≠ 0) :
    decodeWord w = .error (if 0x09 ≤ (opcodeOf w).toNat then .badOpcode else .rsvNonzero) := by
  obtain ⟨r, hr, hrow, -⟩ | ⟨-, hdec⟩ := decodeWord_cases w
  · obtain ⟨hle, hrsv⟩ := formed_of_inRow hr hrow
    exact absurd h (not_or.mpr ⟨hle.trans_lt (by decide) |>.not_ge, not_not.mpr hrsv⟩)
  · exact hdec

/-- A word that does not decode is rejected, and nothing else changes (R139). -/
theorem apply_of_error {w : Word} {c : Cause} (h : decodeWord w = .error c) (s : State) :
    apply w s = .next (rejectedState (causeCode c) s) := by
  rw [apply, h]; rfl

/-- Settles O3: a malformed word is in no row, and its opcode says which of the two causes it is rejected with. -/
theorem malformedWordsAreRejected : Obligations.MalformedWordsAreRejected := by
  refine fun w s => ⟨fun hop => ?_, fun hop hrsv => ?_⟩
  · rw [apply_of_error (decodeWord_of_malformed (.inl hop)), if_pos hop, causeCode]
  · rw [apply_of_error (decodeWord_of_malformed (.inr hrsv)), if_neg (by omega), causeCode]

/-! ### The examples of the spec (R74) -/

/-- Settles O4: each word is decoded; the program is cut into its lines, assembled and encoded. -/
theorem specWordsDecode : Obligations.SpecWordsDecode := by
  refine ⟨by decide, by decide, by decide, by decide, by decide, by decide, by decide, by decide, by decide,
    by decide, ?_⟩
  rw [assemble, String.toList_append, String.toList_append]
  decide +kernel

end Sys2Proof.Machine
end

section
namespace Sys2Proof.Machine

/-! ## The checks of a command (R71, R140) -/

/-- The code a failing check records (R138); none if the check passes. -/
def codeOf {α : Type} : Except Cause α → Option (BitVec 8)
  | .ok _ => none
  | .error c => some (causeCode c)

@[simp] theorem codeOf_ok {α : Type} (a : α) : codeOf (.ok a : Except Cause α) = none := rfl
@[simp] theorem codeOf_pure {α : Type} (a : α) : codeOf (pure a : Except Cause α) = none := rfl
@[simp] theorem codeOf_error {α : Type} (c : Cause) : codeOf (.error c : Except Cause α) = some (causeCode c) := rfl

/-- Of two checks made one after the other the first that fails is recorded. -/
theorem codeOf_bind {α β : Type} {k : Except Cause α} {g : α → Except Cause β} {c : Option (BitVec 8)}
    (h : ∀ a, k = .ok a → codeOf (g a) = c) : codeOf (k >>= g) = (codeOf k).or c := by
  cases k with
  | ok a => exact h a rfl
  | error e => rfl

theorem ite_some_or {p : Prop} [Decidable p] (c : BitVec 8) (x : Option (BitVec 8)) :
    (if p then some c else none).or x = if p then some c else x := by
  split <;> rfl

theorem ite_some_eq_none {α : Type} {p : Prop} [Decidable p] {c : α} {x : Option α} :
    (if p then some c else x) = none ↔ ¬ p ∧ x = none := by
  by_cases h : p <;> simp [h]

/-! ### The code of each check -/

theorem codeOf_checkVoice (voice : BitVec 8) :
    codeOf (checkVoice voice) = if 32 ≤ voice.toNat then some 3 else none := by
  unfold checkVoice
  split
  · rw [if_neg (by omega)]; rfl
  · rw [if_pos (by omega)]; rfl

theorem codeOf_checkNote (note vel : BitVec 8) :
    codeOf (checkNote note vel) = if 128 ≤ note.toNat ∨ 128 ≤ vel.toNat then some 10 else none := by
  unfold checkNote
  split
  · rw [if_neg (by omega)]; rfl
  · rw [if_pos (by omega)]; rfl

theorem codeOf_checkParam (pid : BitVec 16) :
    codeOf (checkParam pid) = if pidOfBits pid = none then some 4 else none := by
  unfold checkParam
  cases pidOfBits pid <;> rfl

theorem codeOf_checkValue (x : F32) : codeOf (checkValue x) = if F32.isFinite x = false then some 5 else none := by
  unfold checkValue
  cases F32.isFinite x <;> rfl

theorem codeOf_checkSlot (n : Nat) (slot : BitVec 8) :
    codeOf (checkSlot n slot) = if n ≤ slot.toNat then some 6 else none := by
  unfold checkSlot
  split
  · rw [if_neg (by omega)]; rfl
  · rw [if_pos (by omega)]; rfl

theorem gsrcIndex_eq_none_iff (src : BitVec 8) : gsrcIndex src = none ↔ src.toNat = 0 ∨ 5 < src.toNat := by
  rw [gsrcIndex, dite_eq_right_iff]
  simp only [reduceCtorEq, imp_false]
  omega

theorem lsrcIndex_eq_none_iff (src : BitVec 8) : lsrcIndex src = none ↔ src ≠ 0x18#8 ∧ src ≠ 0x19#8 := by
  simp [lsrcIndex, ite_some_eq_none]

theorem codeOf_checkGsrc (src : BitVec 8) :
    codeOf (checkGsrc src) = if src.toNat = 0 ∨ 5 < src.toNat then some 7 else none := by
  simp only [← gsrcIndex_eq_none_iff]
  unfold checkGsrc
  cases gsrcIndex src <;> rfl

theorem codeOf_checkLsrc (src : BitVec 8) :
    codeOf (checkLsrc src) = if src ≠ 0x18#8 ∧ src ≠ 0x19#8 then some 7 else none := by
  simp only [← lsrcIndex_eq_none_iff]
  unfold checkLsrc
  cases lsrcIndex src <;> rfl

theorem codeOf_checkSlotSource (src : BitVec 8) :
    codeOf (checkSlotSource src) = if src ≠ 0 ∧ sourceOfBits src = none then some 7 else none := by
  unfold checkSlotSource
  by_cases h : src = 0
  · rw [if_pos h, if_neg (fun hc => hc.1 h), codeOf_ok]
  · rw [if_neg h]
    cases sourceOfBits src with
    | none => rw [if_pos ⟨h, rfl⟩, codeOf_error, causeCode]
    | some x => rw [if_neg (fun hc => nomatch hc.2), codeOf_ok]

theorem codeOf_checkTarget (tgt : BitVec 16) :
    codeOf (checkTarget tgt) =
      if tgt ≠ 0 ∧ ((pidOfBits tgt).map isModulatable).getD false = false then some 8 else none := by
  unfold checkTarget
  by_cases h : tgt = 0
  · rw [if_pos h, if_neg (fun hc => hc.1 h), codeOf_ok]
  · rw [if_neg h]
    cases pidOfBits tgt with
    | none => rw [if_pos ⟨h, rfl⟩, codeOf_error, causeCode]
    | some p =>
      simp only [Option.map_some, Option.getD_some]
      by_cases hm : isModulatable p = true
      · rw [if_pos hm, if_neg (fun hc => Bool.false_ne_true (hc.2.symm.trans hm)), codeOf_ok]
      · rw [if_neg hm, if_pos ⟨h, Bool.eq_false_iff.mpr hm⟩, codeOf_error, causeCode]

/-- An accepted slot source is none, written 0, or the source its identifier names. -/
theorem checkSlotSource_ok {src : BitVec 8} {x : Option Source} (h : checkSlotSource src = .ok x) :
    (src = 0 ∧ x = none) ∨ (src ≠ 0 ∧ ∃ y, sourceOfBits src = some y ∧ x = some y) := by
  unfold checkSlotSource at h
  split at h
  · cases h; exact .inl ⟨‹_›, rfl⟩
  · split at h
    · cases h; exact .inr ⟨‹_›, _, ‹_›, rfl⟩
    · cases h

/-- An accepted slot target is none, written 0, or the parameter its identifier names. -/
theorem checkTarget_ok_cases {tgt : BitVec 16} {p : Option Pid} (h : checkTarget tgt = .ok p) :
    (tgt = 0 ∧ p = none) ∨ (tgt ≠ 0 ∧ ∃ q, pidOfBits tgt = some q ∧ p = some q) := by
  unfold checkTarget at h
  split at h
  · cases h; exact .inl ⟨‹_›, rfl⟩
  · split at h
    · split at h
      · cases h; exact .inr ⟨‹_›, _, ‹_›, rfl⟩
      · cases h
    · cases h

/-- The check of an accepted pair, in its identifiers (R81). -/
theorem codeOf_checkRoute (en : Bool) {src : BitVec 8} {tgt : BitVec 16} {x : Option Source} {p : Option Pid}
    (hx : checkSlotSource src = .ok x) (hp : checkTarget tgt = .ok p) :
    codeOf (checkRoute en x p) =
      if en = true ∧ (src = 0 ∨ tgt = 0) then some 11
      else if en = true ∧ ((sourceOfBits src).map isLocalSource).getD false = true ∧
        ((pidOfBits tgt).map isGlobal).getD false = true then some 9
      else none := by
  cases en with
  | false => rfl
  | true =>
    obtain ⟨hs, rfl⟩ | ⟨hs, y, hy, rfl⟩ := checkSlotSource_ok hx
    · rw [if_pos ⟨rfl, .inl hs⟩]; rfl
    · obtain ⟨ht, rfl⟩ | ⟨ht, q, hq, rfl⟩ := checkTarget_ok_cases hp
      · rw [if_pos ⟨rfl, .inr ht⟩]; rfl
      · rw [if_neg (fun h => h.2.elim hs ht), hy, hq]
        cases hl : isLocalSource y <;> cases hg : isGlobal q <;> simp [checkRoute, hl, hg, causeCode]

/-! ### A command as its checks and its effect (R71, R75) -/

/-- Every command is its checks, of which `firstCode` names the first that fails, and an effect that writes no counter,
no flag and not the queue (R71, R140). -/
theorem exec_checked (i : Instr) (s : State) :
    ∃ (α : Type) (k : Except Cause α) (f : α → State → State), exec i s = .next (performed k f s) ∧
      firstCode s.cfg.nSlots i = codeOf k ∧ ∀ a, (f a s).cnt = s.cnt ∧ (f a s).status = s.status ∧ (f a s).q = s.q := by
  cases i with
  | nop => exact ⟨Unit, .ok (), fun _ s => s, rfl, rfl, fun _ => ⟨rfl, rfl, rfl⟩⟩
  | noteOff voice => exact ⟨_, _, _, rfl, (codeOf_checkVoice voice).symm, fun _ => ⟨rfl, rfl, rfl⟩⟩
  | writeParam | noteOn | steal | slotIntensity | setGsrc =>
    refine ⟨_, _, _, rfl, ?_, fun _ => ⟨rfl, rfl, rfl⟩⟩
    refine Eq.trans ?_ (codeOf_bind fun _ _ => codeOf_bind fun _ _ => codeOf_pure _).symm
    simp only [firstCode, codeOf_checkParam, codeOf_checkValue, codeOf_checkVoice, codeOf_checkNote, codeOf_checkSlot,
      codeOf_checkGsrc, ite_some_or, Option.or_none]
  | setLsrc voice src val =>
    refine ⟨_, _, _, rfl, ?_, fun _ => ⟨rfl, rfl, rfl⟩⟩
    refine Eq.trans ?_ (codeOf_bind fun _ _ => codeOf_bind fun _ _ => codeOf_bind fun _ _ => codeOf_pure _).symm
    simp only [firstCode, codeOf_checkVoice, codeOf_checkLsrc, codeOf_checkValue, ite_some_or, Option.or_none]
  | slotRoute slot en src tgt =>
    refine ⟨_, _, _, rfl, ?_, fun _ => ⟨rfl, rfl, rfl⟩⟩
    refine Eq.trans ?_ (codeOf_bind fun _ _ => codeOf_bind fun _ hx => codeOf_bind fun _ hp =>
      (codeOf_bind fun _ _ => codeOf_pure _).trans (congrArg (Option.or · none) (codeOf_checkRoute en hx hp))).symm
    simp only [firstCode, codeOf_checkSlot, codeOf_checkSlotSource, codeOf_checkTarget, ite_some_or, Option.or_none]

/-- The commands no check rejects are the well-formed ones (R71). -/
theorem firstCode_eq_none_iff (nSlots : Nat) (i : Instr) :
    firstCode nSlots i = none ↔ i.wellFormed nSlots = true := by
  cases i with
  | nop => exact iff_of_true rfl rfl
  | writeParam | noteOn | noteOff | steal | slotIntensity | setGsrc | setLsrc =>
    simp [firstCode, Instr.wellFormed, legalVal, legalVoice, legalNote, legalSlot, ite_some_eq_none, nVoices,
      gsrcIndex_eq_none_iff, lsrcIndex_eq_none_iff, Option.isSome_iff_ne_none, and_assoc]
  | slotRoute slot en src tgt =>
    cases en <;>
      simp [firstCode, Instr.wellFormed, legalSlot, legalRoute, ite_some_eq_none, Option.isSome_iff_ne_none, and_assoc,
        or_iff_not_imp_left]

/-- Settles O22: a well-formed command's checks pass, so that it has its effect, which writes no diagnostic register. -/
theorem acceptedCommandsLeaveDiagnostics : Obligations.AcceptedCommandsLeaveDiagnostics := by
  intro i s
  refine ⟨firstCode_eq_none_iff _ i, fun hwf => ?_⟩
  obtain ⟨α, k, f, hexec, hcode, hframe⟩ := exec_checked i s
  rw [(firstCode_eq_none_iff _ i).mpr hwf] at hcode
  cases k with
  | ok a => exact ⟨f a s, hexec, hframe a⟩
  | error c => cases hcode

end Sys2Proof.Machine
end

section
namespace Sys2Proof.Machine

/-! ## Commands with illegal operands (R139, R140) -/

/-- A command with a failing check is rejected with the code of the first that fails, and nothing else changes. -/
theorem exec_of_firstCode {i : Instr} {s : State} {c : BitVec 8} (h : firstCode s.cfg.nSlots i = some c) :
    exec i s = .next (rejectedState c s) := by
  obtain ⟨α, k, f, hexec, hcode, -⟩ := exec_checked i s
  rw [h] at hcode
  cases k with
  | ok a => cases hcode
  | error e =>
    obtain rfl : c = causeCode e := Option.some.inj hcode
    exact hexec

/-! ## Commands with legal operands: checks that pass -/

theorem checkVoice_of_toNat {voice : BitVec 8} {v : Fin 32} (h : voice.toNat = v.val) : checkVoice voice = .ok v := by
  rw [checkVoice, dif_pos (h ▸ v.isLt)]
  exact congrArg _ (Fin.ext h)

theorem checkNote_of_lt {note vel : BitVec 8} (hn : note.toNat < 128) (hv : vel.toNat < 128) :
    checkNote note vel = .ok (note.setWidth 7, vel.setWidth 7) := if_pos ⟨hn, hv⟩

theorem checkParam_of_some {bits : BitVec 16} {pid : Pid} (h : pidOfBits bits = some pid) :
    checkParam bits = .ok pid := by rw [checkParam, h]

theorem checkValue_of_isFinite {x : F32} (h : F32.isFinite x = true) : checkValue x = .ok x := if_pos h

theorem checkSlot_of_lt {n : Nat} {slot : BitVec 8} (h : slot.toNat < n) : checkSlot n slot = .ok slot.toNat := if_pos h

theorem checkGsrc_of_toNat {src : BitVec 8} {i : Fin 5} (h : src.toNat = i.val + 1) : checkGsrc src = .ok i := by
  have hi : gsrcIndex src = some i := by
    rw [gsrcIndex, dif_pos (by omega)]
    exact congrArg some (Fin.ext (by simp only; omega))
  rw [checkGsrc, hi]

theorem checkLsrc_of_toNat {src : BitVec 8} {i : Fin 2} (h : src.toNat = 0x18 + i.val) : checkLsrc src = .ok i := by
  obtain rfl : src = BitVec.ofNat 8 (0x18 + i.val) := BitVec.eq_of_toNat_eq (by rw [h, BitVec.toNat_ofNat]; omega)
  revert i
  decide

/-- A slot accepts 0x00, which names no source, and the identifier of a source (R81). -/
theorem checkSlotSource_of_named {src : BitVec 8} (h : src = 0 ∨ sourceOfBits src ≠ none) :
    checkSlotSource src = .ok (sourceOfBits src) := by
  by_cases h0 : src = 0
  · rw [h0]; decide
  · obtain ⟨x, hx⟩ := Option.ne_none_iff_exists'.mp (h.resolve_left h0)
    rw [checkSlotSource, if_neg h0, hx]

/-- A slot accepts 0x0000, which names no target, and the identifier of a modulatable parameter (R81, R136). -/
theorem checkTarget_of_named {tgt : BitVec 16} (h : tgt = 0 ∨ ∃ p, pidOfBits tgt = some p ∧ isModulatable p = true) :
    checkTarget tgt = .ok (pidOfBits tgt) := by
  by_cases h0 : tgt = 0
  · rw [h0]; decide
  · obtain ⟨p, hp, hm⟩ := h.resolve_left h0
    rw [checkTarget, if_neg h0, hp]
    exact if_pos hm

/-- A disabled slot accepts any pair, an enabled one a source and a target that are not local to global (R81). -/
theorem checkRoute_of_compatible {en : Bool} {src : Option Source} {tgt : Option Pid}
    (h : en = false ∨ ∃ x p, src = some x ∧ tgt = some p ∧ ¬(isLocalSource x = true ∧ isGlobal p = true)) :
    checkRoute en src tgt = .ok () := by
  obtain rfl | ⟨x, p, rfl, rfl, hscope⟩ := h
  · rfl
  · cases en with
    | false => rfl
    | true => exact (if_pos rfl).trans (if_neg (by rwa [Bool.and_eq_true]))

theorem checkNoteArgs_of_legal {voice note vel : BitVec 8} {v : Fin 32} (hvoice : voice.toNat = v.val)
    (hn : note.toNat < 128) (hv : vel.toNat < 128) :
    checkNoteArgs voice note vel = .ok (v, note.setWidth 7, vel.setWidth 7) := by
  rw [checkNoteArgs, checkVoice_of_toNat hvoice, checkNote_of_lt hn hv]; rfl

/-! ## Commands with legal operands: effects -/

theorem exec_writeParam {bits : BitVec 16} {pid : Pid} {val : F32} (hpid : pidOfBits bits = some pid)
    (hval : F32.isFinite val = true) (s : State) :
    exec (.writeParam bits val) s = .next (writeParamReg pid (paramValue pid val) s) := by
  rw [exec, execWriteParam, checkWriteParam, checkParam_of_some hpid, checkValue_of_isFinite hval]; rfl

theorem exec_noteOn {voice note vel : BitVec 8} {v : Fin 32} (hvoice : voice.toNat = v.val) (hn : note.toNat < 128)
    (hv : vel.toNat < 128) (s : State) :
    exec (.noteOn voice note vel) s =
      .next (updateVoice v (noteOnVoice (note.setWidth 7) (vel.setWidth 7)) s) := by
  rw [exec, execNoteOn, checkNoteArgs_of_legal hvoice hn hv]; rfl

theorem exec_noteOff {voice : BitVec 8} {v : Fin 32} (hvoice : voice.toNat = v.val) (s : State) :
    exec (.noteOff voice) s = .next (updateVoice v noteOffVoice s) := by
  rw [exec, execNoteOff, checkVoice_of_toNat hvoice]; rfl

theorem exec_steal {voice note vel : BitVec 8} {v : Fin 32} (hvoice : voice.toNat = v.val) (hn : note.toNat < 128)
    (hv : vel.toNat < 128) (s : State) :
    exec (.steal voice note vel) s =
      .next (updateVoice v (stealVoice s.cfg (note.setWidth 7) (vel.setWidth 7)) s) := by
  rw [exec, execSteal, checkNoteArgs_of_legal hvoice hn hv]; rfl

theorem exec_slotRoute {slot : BitVec 8} {en : Bool} {src : BitVec 8} {tgt : BitVec 16} {s : State}
    (hslot : slot.toNat < s.cfg.nSlots) (hsrc : src = 0 ∨ sourceOfBits src ≠ none)
    (htgt : tgt = 0 ∨ ∃ p, pidOfBits tgt = some p ∧ isModulatable p = true)
    (hroute : en = false ∨ ∃ x p, sourceOfBits src = some x ∧ pidOfBits tgt = some p ∧
      ¬(isLocalSource x = true ∧ isGlobal p = true)) :
    exec (.slotRoute slot en src tgt) s = .next (updateSlot slot.toNat
      (fun x => { x with src := sourceOfBits src, tgt := pidOfBits tgt, en := en }) s) := by
  rw [exec, execSlotRoute, checkSlotRoute, checkSlot_of_lt hslot, checkSlotSource_of_named hsrc,
    checkTarget_of_named htgt]
  simp only [bind, Except.bind, checkRoute_of_compatible hroute]
  rfl

theorem exec_slotIntensity {slot : BitVec 8} {val : F32} {s : State} (hslot : slot.toNat < s.cfg.nSlots)
    (hval : F32.isFinite val = true) :
    exec (.slotIntensity slot val) s =
      .next (updateSlot slot.toNat (fun x => { x with intensity := F32.clamp val F32.minusOne F32.one }) s) := by
  rw [exec, execSlotIntensity, checkSlotIntensity, checkSlot_of_lt hslot, checkValue_of_isFinite hval]; rfl

theorem exec_setGsrc {src : BitVec 8} {i : Fin 5} {val : F32} (hsrc : src.toNat = i.val + 1)
    (hval : F32.isFinite val = true) (s : State) :
    exec (.setGsrc src val) s = .next (writeGsrc i (F32.clamp val (gsrcRange i).1 (gsrcRange i).2) s) := by
  rw [exec, execSetGsrc, checkSetGsrc, checkGsrc_of_toNat hsrc, checkValue_of_isFinite hval]; rfl

theorem exec_setLsrc {voice src : BitVec 8} {v : Fin 32} {i : Fin 2} {val : F32} (hvoice : voice.toNat = v.val)
    (hsrc : src.toNat = 0x18 + i.val) (hval : F32.isFinite val = true) (s : State) :
    exec (.setLsrc voice src val) s = .next (updateVoice v
      (fun vc => { vc with lsrc := vc.lsrc.set i.val (F32.clamp val F32.minusOne F32.one) }) s) := by
  rw [exec, execSetLsrc, checkSetLsrc, checkVoice_of_toNat hvoice, checkLsrc_of_toNat hsrc,
    checkValue_of_isFinite hval]
  rfl

end Sys2Proof.Machine
end

section
namespace Sys2Proof.Machine

/-! ## NOP and the commands that write registers

### NOP (R76) -/

/-- The only word of opcode 0 without an RSV bit is NOP's (R65, R67). -/
theorem eq_zero_of_opcode_zero {w : Word} (hop : opcodeOf w = 0x00#8) (h : w &&& rsvBits (opcodeOf w) = 0) : w = 0 := by
  rw [hop] at h
  have hrow : inRow rowNop w = true := (inRow_iff (by decide) w).mpr ⟨hop, h⟩
  rw [inRow, beq_iff_eq] at hrow
  exact BitVec.and_allOnes.symm.trans hrow

/-- Settles O12: the word 0 decodes to NOP, any other of its opcode has an RSV bit, and a NOP is pushed like any word. -/
theorem nopResult : Obligations.NopResult := by
  intro s
  have hword : encode .nop = 0 := by decide
  refine ⟨rfl, fun w hop => ?_, fun h => ?_, fun h => ?_⟩
  · by_cases h0 : w = 0
    · have hdec : decodeWord 0 = .ok .nop := by decide
      rw [if_pos h0, h0, apply, hdec]
      rfl
    · rw [if_neg h0, apply_of_error (decodeWord_of_malformed (.inr fun h => h0 (eq_zero_of_opcode_zero hop h))), hop]
      rfl
  · rw [queuePush_of_lt _ h, hword]
  · rw [queuePush_of_le _ h, hword]
    exact ⟨rfl, rfl⟩

/-! ### Parameters (R77) -/

/-- Settles O13: the two checks, and a register file that reads what was written. -/
theorem writeParamResult : Obligations.WriteParamResult := by
  intro s bits val
  refine ⟨fun h => exec_of_firstCode (if_pos h), fun pid hpid => ⟨fun hval => exec_of_firstCode ?_, fun hval => ?_⟩⟩
  · rw [firstCode, if_neg (by simp [hpid]), if_pos hval]
  · exact ⟨_, exec_writeParam hpid hval s, rfl, fun q => readParam_writeParamReg pid q _ s⟩

/-! ### Slots (R81, R82) -/

/-- A slot that a command updates reads the update, the others what they held. -/
theorem updateSlot_getElem? (i j : Nat) (f : Slot → Slot) (s : State) :
    (updateSlot i f s).slots[j]? = (s.slots[j]?).map (fun x => if j = i then f x else x) := by
  simp only [updateSlot_slots, List.getElem?_modify, eq_comm (a := i)]
  rfl

/-- Settles O17: the five checks in their order, and the update of one slot. -/
theorem slotRouteResult : Obligations.SlotRouteResult := by
  intro s slot en src tgt
  refine ⟨fun h => exec_of_firstCode (if_pos h), fun hslot => ?_⟩
  have passSlot : ¬ s.cfg.nSlots ≤ slot.toNat := hslot.not_ge
  refine ⟨fun h => exec_of_firstCode ?_, fun hsrc => ?_⟩
  · rw [firstCode, if_neg passSlot, if_pos h]
  have passSource : ¬ (src ≠ 0 ∧ sourceOfBits src = none) := fun h => hsrc.elim h.1 (· h.2)
  refine ⟨fun ⟨h0, hbad⟩ => exec_of_firstCode ?_, fun htgt => ?_⟩
  · have hcode : ((pidOfBits tgt).map isModulatable).getD false = false := by
      cases hp : pidOfBits tgt with
      | none => rfl
      | some p => exact hbad p hp
    rw [firstCode, if_neg passSlot, if_neg passSource, if_pos ⟨h0, hcode⟩]
  have passTarget : ¬ (tgt ≠ 0 ∧ ((pidOfBits tgt).map isModulatable).getD false = false) := by
    rintro ⟨h0, hcode⟩
    obtain ⟨p, hp, hm⟩ := htgt.resolve_left h0
    rw [hp] at hcode
    exact Bool.false_ne_true (hcode.symm.trans hm)
  refine ⟨fun h => exec_of_firstCode ?_, fun ⟨hen, x, p, hx, hp, hl, hg⟩ => exec_of_firstCode ?_, fun hroute => ?_⟩
  · rw [firstCode, if_neg passSlot, if_neg passSource, if_neg passTarget, if_pos h]
  · have passPair : ¬ (en = true ∧ (src = 0 ∨ tgt = 0)) := by
      rintro ⟨-, rfl | rfl⟩
      · cases hx
      · cases hp
    rw [firstCode, if_neg passSlot, if_neg passSource, if_neg passTarget, if_neg passPair, hx, hp, if_pos ⟨hen, hl, hg⟩]
  · exact ⟨_, exec_slotRoute hslot hsrc htgt hroute, rfl, fun j => updateSlot_getElem? _ j _ s⟩

/-- Settles O18: the two checks, and the update of one slot. -/
theorem slotIntensityResult : Obligations.SlotIntensityResult := by
  intro s slot val
  refine ⟨fun h => exec_of_firstCode (if_pos h), fun hslot => ⟨fun hval => exec_of_firstCode ?_, fun hval => ?_⟩⟩
  · rw [firstCode, if_neg hslot.not_ge, if_pos hval]
  · exact ⟨_, exec_slotIntensity hslot hval, rfl, fun j => updateSlot_getElem? _ j _ s⟩

/-! ### Source inputs (R83, R84) -/

/-- A register of a group reads what was written to it, the others what they held. -/
theorem getElem_set_fin {α : Type} {n : Nat} (xs : Vector α n) (i j : Fin n) (x : α) :
    (xs.set i.val x)[j.val] = if j = i then x else xs[j.val] := by
  simp only [Vector.getElem_set, Fin.ext_iff, eq_comm (a := i.val)]

/-- The range of the global source input an identifier names (R32). -/
theorem gsrcRange_of_toNat {src : BitVec 8} {i : Fin 5} (h : src.toNat = i.val + 1) :
    gsrcRange i = (if src = 1 ∨ src = 3 then F32.zero else F32.minusOne, F32.one) := by
  obtain rfl : src = BitVec.ofNat 8 (i.val + 1) := BitVec.eq_of_toNat_eq (by rw [h, BitVec.toNat_ofNat]; omega)
  revert i
  decide

/-- Settles O19: the two checks, and the write of one global source input. -/
theorem setGsrcResult : Obligations.SetGsrcResult := by
  intro s src val
  refine ⟨fun h => exec_of_firstCode (if_pos h), fun i hsrc => ⟨fun hval => exec_of_firstCode ?_, fun hval => ?_⟩⟩
  · rw [firstCode, if_neg (by omega), if_pos hval]
  · refine ⟨_, exec_setGsrc hsrc hval s, rfl, fun j => ?_⟩
    simp only [writeGsrc_gsrc, getElem_set_fin, gsrcRange_of_toNat hsrc]

/-- The voice a command updates reads the update. -/
theorem updateVoice_getElem_self (v : Fin 32) (f : Voice → Voice) (s : State) :
    (updateVoice v f s).voices[v.val] = f s.voices[v.val] := by rw [updateVoice_getElem, if_pos rfl]

/-- The other voices read what they held. -/
theorem updateVoice_getElem_ne {v u : Fin 32} (h : u ≠ v) (f : Voice → Voice) (s : State) :
    (updateVoice v f s).voices[u.val] = s.voices[u.val] := by rw [updateVoice_getElem, if_neg h]

/-- Settles O20: the three checks, and the write of one LFO input of one voice. -/
theorem setLsrcResult : Obligations.SetLsrcResult := by
  intro s voice src val
  refine ⟨fun h => exec_of_firstCode (if_pos h), fun v hvoice => ?_⟩
  have passVoice : ¬ 32 ≤ voice.toNat := by omega
  refine ⟨fun h => exec_of_firstCode ?_, fun i hsrc => ⟨fun hval => exec_of_firstCode ?_, fun hval => ?_⟩⟩
  · rw [firstCode, if_neg passVoice, if_pos (by bv_omega)]
  · rw [firstCode, if_neg passVoice, if_neg (by bv_omega), if_pos hval]
  · refine ⟨_, exec_setLsrc hvoice hsrc hval s, rfl, fun u hu => updateVoice_getElem_ne hu _ s, ?_, fun j => ?_⟩
    · rw [updateVoice_getElem_self]
    · simp only [updateVoice_getElem_self, getElem_set_fin]

end Sys2Proof.Machine
end

section
namespace Sys2Proof.Machine

/-! ## The note commands, and the end of a fade

### A voice started, retriggered and released (R78, R79, R94, R95) -/

theorem unitsReset_reinit (vc : Voice) : UnitsReset vc (reinit vc) :=
  ⟨rfl, rfl, rfl, rfl, fun k i => by simp [reinit, oscReset, resetPhases], fun k => by simp [reinit, oscReset],
    fun f => by simp [reinit], rfl, rfl⟩

/-- A note started on a voice is started from reset units (R94, R95). -/
theorem started_startVoice (note vel : BitVec 7) (vc : Voice) : Started note vel vc (startVoice note vel vc) :=
  ⟨rfl, rfl, rfl, unitsReset_reinit vc, fun e => by simp [startVoice, reinit, envNoteOn, envReset]⟩

/-- A voice that goes Idle at the end of a fade has its units reset (R95, R97). -/
theorem silenced_reinit (vc : Voice) : Silenced vc { reinit vc with stage := .idle } :=
  ⟨rfl, rfl, rfl, unitsReset_reinit vc, fun e => by simp [reinit, envReset]⟩

/-- Every envelope of a retriggered voice attacks from its current level (R78, R119). -/
theorem retrigger_env (note vel : BitVec 7) (vc : Voice) (e : Fin 3) :
    (retrigger note vel vc).env[e.val] = ⟨.attack, vc.env[e.val].level, vc.env[e.val].level, 0⟩ := by
  rw [retrigger, getElem_vmap, envNoteOn]

/-- A note-off releases an envelope from its current level unless it is Idle or in Release (R120). -/
theorem envNoteOff_eq (e : Env) :
    envNoteOff e = if e.stage = .idle ∨ e.stage = .release then e else ⟨.release, e.level, e.level, 0⟩ := by
  cases hs : e.stage <;> simp [envNoteOff, hs]

/-! ### What a note command does to its voice, by the voice's state (R78 to R80) -/

section
variable {c : Params} {note vel : BitVec 7} {vc : Voice}

theorem noteOnVoice_of_fading (h : 0 < vc.fade) : noteOnVoice note vel vc = setPending note vel vc := if_pos h

theorem noteOnVoice_of_idle (hf : vc.fade = 0) (hs : vc.stage = .idle) :
    noteOnVoice note vel vc = startVoice note vel vc := (if_neg hf.not_gt).trans (if_pos hs)

theorem noteOnVoice_of_sounding (hf : vc.fade = 0) (hs : vc.stage ≠ .idle) :
    noteOnVoice note vel vc = retrigger note vel vc := (if_neg hf.not_gt).trans (if_neg hs)

theorem noteOffVoice_of_fading (h : 0 < vc.fade) : noteOffVoice vc = { vc with pend := false } := if_pos h

theorem noteOffVoice_of_active (hf : vc.fade = 0) (hs : vc.stage = .active) :
    noteOffVoice vc = { vc with stage := .releasing, env := vmap envNoteOff vc.env } :=
  (if_neg hf.not_gt).trans (if_pos hs)

theorem noteOffVoice_of_not_active (hf : vc.fade = 0) (hs : vc.stage ≠ .active) : noteOffVoice vc = vc :=
  (if_neg hf.not_gt).trans (if_neg hs)

theorem stealVoice_of_fading (h : 0 < vc.fade) : stealVoice c note vel vc = setPending note vel vc := if_pos h

theorem stealVoice_of_nothing_to_fade (hf : vc.fade = 0) (hs : vc.stage = .idle ∨ c.fadeLen = 0) :
    stealVoice c note vel vc = startVoice note vel vc := (if_neg hf.not_gt).trans (if_pos hs)

theorem stealVoice_of_sounding (hf : vc.fade = 0) (hs : vc.stage ≠ .idle) (hlen : c.fadeLen ≠ 0) :
    stealVoice c note vel vc = setPending note vel { vc with fade := c.fadeLen } :=
  (if_neg hf.not_gt).trans (if_neg (not_or.mpr ⟨hs, hlen⟩))

end

/-- An update that leaves its voice as it is leaves the state as it is. -/
theorem updateVoice_eq_self {v : Fin 32} {f : Voice → Voice} {s : State} (h : f s.voices[v.val] = s.voices[v.val]) :
    updateVoice v f s = s := by rw [updateVoice, h, Vector.set_getElem_self]

/-! ### The note commands (R78 to R80) -/

/-- Settles O14: the two checks, and the three states a note-on may find its voice in. -/
theorem noteOnResult : Obligations.NoteOnResult := by
  intro s voice note vel
  refine ⟨fun h => exec_of_firstCode (if_pos h), fun v hvoice => ⟨fun h => exec_of_firstCode ?_, fun hn hv => ?_⟩⟩
  · rw [firstCode, if_neg (by omega), if_pos h]
  · refine ⟨_, exec_noteOn hvoice hn hv s, rfl, fun u hu => updateVoice_getElem_ne hu _ s, ?_⟩
    rw [updateVoice_getElem_self]
    refine ⟨noteOnVoice_of_fading, fun hf hs => ?_, fun hf hs => ?_⟩
    · rw [noteOnVoice_of_idle hf hs]
      exact started_startVoice _ _ _
    · rw [noteOnVoice_of_sounding hf hs]
      exact ⟨rfl, retrigger_env _ _ _⟩

/-- Settles O15: the check, and the three states a note-off may find its voice in. -/
theorem noteOffResult : Obligations.NoteOffResult := by
  intro s voice
  refine ⟨fun h => exec_of_firstCode (if_pos h), fun v hvoice => ?_⟩
  refine ⟨_, exec_noteOff hvoice s, rfl, fun u hu => updateVoice_getElem_ne hu _ s, ?_⟩
  rw [updateVoice_getElem_self]
  refine ⟨noteOffVoice_of_fading, fun hf hs => ?_, fun hf hs => updateVoice_eq_self (noteOffVoice_of_not_active hf hs)⟩
  rw [noteOffVoice_of_active hf hs]
  exact ⟨rfl, fun e => (getElem_vmap _ _ _ _).trans (envNoteOff_eq _)⟩

/-- Settles O16: the two checks, and the three states a steal may find its voice in. -/
theorem stealResult : Obligations.StealResult := by
  intro s voice note vel
  refine ⟨fun h => exec_of_firstCode (if_pos h), fun v hvoice => ⟨fun h => exec_of_firstCode ?_, fun hn hv => ?_⟩⟩
  · rw [firstCode, if_neg (by omega), if_pos h]
  · refine ⟨_, exec_steal hvoice hn hv s, rfl, fun u hu => updateVoice_getElem_ne hu _ s, ?_⟩
    rw [updateVoice_getElem_self]
    refine ⟨stealVoice_of_fading, fun hf hs => ?_, stealVoice_of_sounding⟩
    rw [stealVoice_of_nothing_to_fade hf hs]
    exact started_startVoice _ _ _

/-! ### A steal fade, sample by sample (R95 to R97) -/

/-- A fade's samples change nothing of their voice but the fade counter and the units, up to the last of them. -/
theorem renderVoice_frame_of_fade (c : Params) (p : Vector F32 59) (d v n : Nat) {f : Nat} {vc : Voice}
    (hs : vc.stage ≠ .idle) (hf : vc.fade = f + 1) {k : Nat} (hk : k ≤ f) :
    (renderVoice c p d v k n vc).1 =
      { vc with
        fade := f + 1 - k
        env := (renderVoice c p d v k n vc).1.env
        osc := (renderVoice c p d v k n vc).1.osc
        flt := (renderVoice c p d v k n vc).1.flt } := by
  induction k with
  | zero => rw [renderVoice, Nat.sub_zero, ← hf]
  | succ k ih =>
    have ih := ih (by omega)
    rw [renderVoice_succ]
    generalize (renderVoice c p d v k n vc).1 = x at ih ⊢
    have hstage : x.stage ≠ .idle := by rw [ih]; exact hs
    have hfade : x.fade = f + 1 - k := by rw [ih]
    refine (voiceSample_frame_of_fade hstage (by omega)).trans ?_
    generalize (voiceSample c p d v (n + k) x).1 = y
    rw [ih]
    rfl

/-- The units are also reset with respect to any voice with the same effective values, LFO inputs and caches. -/
theorem unitsReset_of_keeps {old x new : Voice} (h : UnitsReset x new)
    (hk : new.eff = old.eff ∧ new.lsrc = old.lsrc ∧
      ∀ f : Fin 2, new.flt[f.val].coefs = old.flt[f.val].coefs ∧ new.flt[f.val].key = old.flt[f.val].key ∧
        new.flt[f.val].cvalid = old.flt[f.val].cvalid) : UnitsReset old new := by
  obtain ⟨hfade, hpend, hpnote, hpvel, hph, hlast, hflt, -, -⟩ := h
  obtain ⟨heff, hlsrc, hcache⟩ := hk
  refine ⟨hfade, hpend, hpnote, hpvel, hph, hlast, fun f => ?_, heff, hlsrc⟩
  obtain ⟨hcoefs, hkey, hvalid⟩ := hcache f
  simp only [hflt f] at hcoefs hkey hvalid ⊢
  rw [hcoefs, hkey, hvalid]

/-- The last sample of a fade starts the waiting note, or silences the voice if none waits (R97). -/
theorem voiceSample_of_fade_one (c : Params) (p : Vector F32 59) (d v n : Nat) {vc : Voice} (hs : vc.stage ≠ .idle)
    (hf : vc.fade = 1) :
    (voiceSample c p d v n vc).1 =
      if vc.pend = true then startVoice vc.pnote vc.pvel (stepped c p d v n vc)
      else { reinit (stepped c p d v n vc) with stage := .idle } := by
  obtain ⟨hi, -⟩ | ⟨-, hf', -⟩ | ⟨-, -, hp, e⟩ | ⟨-, -, hp, e⟩ | ⟨-, hf', -⟩ | ⟨-, hf', -⟩ :=
    voiceSample_cases c p d v n vc
  · exact absurd hi hs
  · omega
  · rw [e, if_pos hp]
  · rw [e, if_neg (by simp [hp])]
  · omega
  · omega

/-- A whole fade starts the waiting note, or silences the voice if none waits, on a voice of the old note (R97). -/
theorem renderVoice_of_whole_fade (c : Params) (p : Vector F32 59) (d v n : Nat) {f : Nat} {vc : Voice}
    (hs : vc.stage ≠ .idle) (hf : vc.fade = f + 1) :
    ∃ x : Voice, x.note = vc.note ∧ x.vel = vc.vel ∧ (renderVoice c p d v (f + 1) n vc).1 =
      if vc.pend = true then startVoice vc.pnote vc.pvel x else { reinit x with stage := .idle } := by
  have hframe := renderVoice_frame_of_fade c p d v n hs hf le_rfl
  rw [renderVoice_succ]
  generalize (renderVoice c p d v f n vc).1 = last at hframe ⊢
  refine ⟨stepped c p d v (n + f) last, by rw [hframe]; rfl, by rw [hframe]; rfl, ?_⟩
  rw [voiceSample_of_fade_one c p d v _ (by rw [hframe]; exact hs) (by rw [hframe]; simp only; omega)]
  have hpend : last.pend = vc.pend := by rw [hframe]
  have hpnote : last.pnote = vc.pnote := by rw [hframe]
  have hpvel : last.pvel = vc.pvel := by rw [hframe]
  rw [hpend, hpnote, hpvel]

/-- Settles O47: the old note sounds through the fade, and the units are reset by its last sample only. -/
theorem stolenVoiceStartsAfterFade : Obligations.StolenVoiceStartsAfterFade := by
  intro c p d v n f vc hs hf
  obtain ⟨x, hnote, hvel, hend⟩ := renderVoice_of_whole_fade c p d v n hs hf
  have hkeeps := renderVoice_keeps c p d v (f + 1) n vc
  refine ⟨fun hp => ?_, fun hp => ?_, fun k hk => ?_⟩
  · rw [hend, if_pos hp] at hkeeps ⊢
    obtain ⟨hstage', hnote', hvel', hunits, henv⟩ := started_startVoice vc.pnote vc.pvel x
    exact ⟨hstage', hnote', hvel', unitsReset_of_keeps hunits hkeeps, henv⟩
  · rw [hend, if_neg (Bool.eq_false_iff.mp hp)] at hkeeps ⊢
    obtain ⟨hstage', hnote', hvel', hunits, henv⟩ := silenced_reinit x
    exact ⟨hstage', hnote'.trans hnote, hvel'.trans hvel, unitsReset_of_keeps hunits hkeeps, henv⟩
  · rw [renderVoice_frame_of_fade c p d v n hs hf hk]
    refine ⟨rfl, rfl, rfl, ?_⟩
    have hgain : f + 1 - k - 1 = f - k := by omega
    rw [fadeGain, if_pos (by simp only; omega), hgain]

end Sys2Proof.Machine
end

section
namespace Sys2Proof.Machine

/-! ## The block step, voice by voice

### A tick as the rendering of what its drain leaves (R86) -/

/-- After a tick the state is the rendering of the state after the drain. -/
theorem eq_renderStep_of_drain {s u t : State} (hticks : ticks s = true) (hu : queueDrain (atTick s) = .next u)
    (h : step s = .next t) : t = renderStep u :=
  next_inj ((step_of_drain hticks hu).symm.trans h)

/-- A voice when the samples of a block begin: resolved, then prepared (R87, R130). -/
theorem blockPrepare_resolveMatrix_voice (u : State) (v : Fin 32) :
    (blockPrepare (resolveMatrix u)).voices[v.val] =
      prepareVoice u.cfg u.p u.draw v.val (resolveVoice u.p u.gsrc u.slots u.voices[v.val]) := by
  simp

/-- Settles O39: the voice's samples in the block are its own (`renderStep_voice`, `renderStep_out`), and of resolution
and preparation only the latter touches the filters. -/
theorem voicesRenderAlone : Obligations.VoicesRenderAlone := by
  intro s u t hticks hu h v
  obtain rfl := eq_renderStep_of_drain hticks hu h
  rw [blockPrepare_resolveMatrix_voice]
  obtain ⟨hframe, hstates, hidle⟩ :=
    prepareVoice_keeps u.cfg u.p u.draw v.val (resolveVoice u.p u.gsrc u.slots u.voices[v.val])
  refine ⟨renderStep_out u v, renderStep_voice u v, ?_, hstates, hidle⟩
  rw [hframe]
  rfl

/-! ### A block without sounding voices (R86, R90) -/

/-- An Idle voice's samples are `+0.0` and change nothing (R90). -/
theorem renderVoice_of_idle (c : Params) (p : Vector F32 59) (d v count n : Nat) {vc : Voice} (h : vc.stage = .idle) :
    renderVoice c p d v count n vc = (vc, List.replicate count F32.zero) := by
  induction count generalizing n with
  | zero => rfl
  | succ count ih =>
    have hzero : F32.settle d (.out v n) F32.zero = F32.zero := settle_finite (by decide)
    simp only [renderVoice, voiceSample, if_pos h, ih, hzero, List.replicate_succ]

/-- A filter is not broken exactly if both its integrators are finite (R117). -/
theorem fltBroken_eq_false_iff {x : Flt} :
    fltBroken x = false ↔ F32.isFinite x.ic1 = true ∧ F32.isFinite x.ic2 = true := by
  simp [fltBroken]

/-- The guard leaves a voice with finite filter states alone (R117). -/
theorem guarded_of_finite {vc : Voice}
    (h : ∀ f : Fin 2, F32.isFinite vc.flt[f.val].ic1 = true ∧ F32.isFinite vc.flt[f.val].ic2 = true) :
    guarded vc = vc := by
  have hflt : vmap nanGuard vc.flt = vc.flt := Vector.ext fun i hi => by
    rw [getElem_vmap, nanGuard, fltBroken_eq_false_iff.mpr (h ⟨i, hi⟩), if_neg Bool.false_ne_true]
  rw [guarded, hflt]

/-- A block leaves of an Idle voice the resolved voice, guarded, and `+0.0` in every element of its buffer (R90). -/
theorem renderStep_of_idle {u : State} {v : Fin 32} (h : u.voices[v.val].stage = .idle) :
    (renderStep u).voices[v.val] = guarded (resolveVoice u.p u.gsrc u.slots u.voices[v.val]) ∧
    (renderStep u).out[v.val] = List.replicate u.cfg.block F32.zero := by
  have hidle : (resolveVoice u.p u.gsrc u.slots u.voices[v.val]).stage = .idle := h
  rw [renderStep_voice, renderStep_out, prepareVoice, if_pos hidle, renderVoice_of_idle _ _ _ _ _ _ hidle]
  exact ⟨rfl, rfl⟩

/-- Settles O38: an Idle voice is only resolved, and the guard finds its filters finite. -/
theorem idleBlockIsSilent : Obligations.IdleBlockIsSilent := by
  intro s t hticks hq hvoices h
  obtain ⟨hempty, -⟩ := drainIsSequential
  obtain rfl := eq_renderStep_of_drain hticks (hempty (atTick s) hq) h
  refine ⟨by rw [renderStep_cnt]; rfl, fun v => ?_⟩
  obtain ⟨hidle, hfinite⟩ := hvoices v
  obtain ⟨hvoice, hout⟩ := renderStep_of_idle (u := atTick s) (v := v) hidle
  refine ⟨hout, ?_⟩
  rw [hvoice.trans (guarded_of_finite hfinite)]
  rfl

/-! ### The non-finite guard (R91, R117) -/

/-- The guard resets the integrators of a filter that is not finite and leaves any other (R117). -/
theorem nanGuard_eq (x : Flt) :
    nanGuard x = if F32.isFinite x.ic1 = true ∧ F32.isFinite x.ic2 = true then x
      else { x with ic1 := F32.zero, ic2 := F32.zero } := by
  by_cases h : F32.isFinite x.ic1 = true ∧ F32.isFinite x.ic2 = true
  · rw [if_pos h, nanGuard, fltBroken_eq_false_iff.mpr h, if_neg Bool.false_ne_true]
  · rw [if_neg h, nanGuard, if_pos (by rwa [← Bool.not_eq_false, fltBroken_eq_false_iff])]

theorem nanGuard_finite (x : Flt) :
    F32.isFinite (nanGuard x).ic1 = true ∧ F32.isFinite (nanGuard x).ic2 = true := by
  rw [nanGuard_eq]
  split
  · assumption
  · have hzero : F32.isFinite F32.zero = true := by decide
    exact ⟨hzero, hzero⟩

/-- A group mapped over its list is its indices mapped. -/
theorem map_toList {α β : Type} {n : Nat} (f : α → β) (xs : Vector α n) :
    xs.toList.map f = (List.finRange n).map (fun i => f xs[i.val]) :=
  List.ext_getElem (by simp) fun i h h' => by simp

/-- The filters a block's samples leave broken, counted voice by voice. -/
theorem brokenAfter_eq (u : State) :
    brokenAfter u = ((List.finRange 32).map (fun v =>
      ((List.finRange 2).filter (fun f => fltBroken (unguarded u v f))).length)).sum := by
  rw [brokenAfter, map_toList]
  refine congrArg List.sum (List.map_congr_left fun v _ => ?_)
  rw [brokenFilters, length_filter_toList, renderBlock, (renderFrom_getElem _ _ _ _ _ _ _ v).1]
  simp [unguarded]

theorem brokenAfter_eq_zero_iff (u : State) :
    brokenAfter u = 0 ↔ ∀ (v : Fin 32) (f : Fin 2),
      F32.isFinite (unguarded u v f).ic1 = true ∧ F32.isFinite (unguarded u v f).ic2 = true := by
  simp [brokenAfter_eq, List.sum_eq_zero_iff, fltBroken_eq_false_iff]

/-- STATUS bit 2 after a block (R117). -/
theorem renderStep_status_nanr (u : State) :
    (renderStep u).status &&& statusNanr = if brokenAfter u = 0 then u.status &&& statusNanr else statusNanr := by
  rw [renderStep_status]
  generalize u.status = x
  split <;> split <;> revert x <;> decide

/-- A drain leaves STATUS bit 2 (R139). -/
theorem queueDrain_status_nanr {s u : State} (h : queueDrain s = .next u) :
    u.status &&& statusNanr = s.status &&& statusNanr := by
  obtain ⟨-, -, -, -, -, -, -, -, e | e⟩ := queueDrain_keeps h <;> rw [e]
  generalize s.status = x
  revert x
  decide

/-- Settles O43: a filter after the block is the guard of what the samples left, and the guard counts the filters it
resets. -/
theorem guardResetsBrokenFilters : Obligations.GuardResetsBrokenFilters := by
  intro s u t hticks hu h
  obtain rfl := eq_renderStep_of_drain hticks hu h
  obtain ⟨-, -, -, -, -, hnan, -⟩ := queueDrain_keeps hu
  refine ⟨fun v f => ?_, fun v f => ?_, ?_, fun ⟨v, f, hbroken⟩ => ?_, fun hfinite => ?_⟩
  · rw [renderStep_flt]
    exact nanGuard_finite _
  · rw [renderStep_flt, nanGuard_eq]
  · rw [renderStep_cnt, brokenAfter_eq]
    simp only [hnan, fltBroken, Bool.not_and]
    rfl
  · rw [renderStep_status_nanr, if_neg fun h0 => hbroken ((brokenAfter_eq_zero_iff u).mp h0 v f)]
  · rw [renderStep_status_nanr, if_pos ((brokenAfter_eq_zero_iff u).mpr hfinite)]
    exact queueDrain_status_nanr (s := atTick s) hu

/-! ### The filter caches (R87, R113) -/

theorem f32_eqv_iff {a b : F32} :
    F32.eqv a b = true ↔ F32.isNaN a = false ∧ F32.isNaN b = false ∧ F32.key a = F32.key b := by
  simp [F32.eqv, and_assoc]

theorem f32_eqv_refl {a : F32} (h : F32.isNaN a = false) : F32.eqv a a = true := f32_eqv_iff.mpr ⟨h, h, rfl⟩

theorem f32_eqv_symm {a b : F32} (h : F32.eqv a b = true) : F32.eqv b a = true := by
  obtain ⟨ha, hb, hk⟩ := f32_eqv_iff.mp h
  exact f32_eqv_iff.mpr ⟨hb, ha, hk.symm⟩

/-- The cache of filter `f` of a voice is valid and keyed by the voice's parameters, as values (R113). -/
def KeyedTo (p : Vector F32 59) (vc : Voice) (f : Fin 2) (x : Flt) : Prop :=
  x.cvalid = true ∧ x.key.mode = intParam p (.flt f .mode) ∧
    F32.eqv x.key.cutoff (readEff p vc (.flt f .cutoff)) = true ∧
    F32.eqv x.key.res (readEff p vc (.flt f .resonance)) = true

/-- It depends on the effective values of the voice and on the cache's key and validity only. -/
theorem keyedTo_congr {p : Vector F32 59} {a b : Voice} {f : Fin 2} {x y : Flt} (heff : b.eff = a.eff)
    (hkey : y.key = x.key) (hvalid : y.cvalid = x.cvalid) (h : KeyedTo p a f x) : KeyedTo p b f y := by
  simpa only [KeyedTo, readEff, heff, hkey, hvalid] using h

/-- An update leaves the cache keyed by the parameters: it was so before, or the key is written (R113). -/
theorem keyedTo_fltCoefUpdate (c : Params) {p : Vector F32 59} {vc : Voice} {f : Fin 2} (d v : Nat) (x : Flt)
    (hcutoff : F32.isNaN (readEff p vc (.flt f .cutoff)) = false)
    (hres : F32.isNaN (readEff p vc (.flt f .resonance)) = false) :
    KeyedTo p vc f (fltCoefUpdate c (fltKeyOf p vc f) d v f.val x) := by
  unfold fltCoefUpdate
  split
  next hhit =>
    simp only [sameKey, Bool.and_eq_true, decide_eq_true_eq] at hhit
    obtain ⟨hvalid, ⟨hmode, hc⟩, hr⟩ := hhit
    exact ⟨hvalid, hmode.symm, f32_eqv_symm hc, f32_eqv_symm hr⟩
  · exact ⟨rfl, rfl, f32_eqv_refl hcutoff, f32_eqv_refl hres⟩

/-- The preparation leaves the caches of a sounding voice keyed by its parameters (R87, R113). -/
theorem keyedTo_prepareVoice (c : Params) {p : Vector F32 59} (d v : Nat) {vc : Voice} (hs : vc.stage ≠ .idle)
    {f : Fin 2} (hcutoff : F32.isNaN (readEff p vc (.flt f .cutoff)) = false)
    (hres : F32.isNaN (readEff p vc (.flt f .resonance)) = false) :
    KeyedTo p vc f (prepareVoice c p d v vc).flt[f.val] := by
  rw [prepareVoice, if_neg hs]
  match f with
  | 0 => exact keyedTo_fltCoefUpdate c d v _ hcutoff hres
  | 1 => exact keyedTo_fltCoefUpdate c d v _ hcutoff hres

/-- The guard keeps the cache (R117). -/
theorem nanGuard_keeps (x : Flt) : (nanGuard x).key = x.key ∧ (nanGuard x).cvalid = x.cvalid := by
  unfold nanGuard
  split <;> exact ⟨rfl, rfl⟩

/-- Neither the samples of a block nor the guard write the key of a cache (R87, R91). -/
theorem renderStep_key (u : State) (v : Fin 32) (f : Fin 2) :
    (renderStep u).voices[v.val].flt[f.val].key = (blockPrepare (resolveMatrix u)).voices[v.val].flt[f.val].key ∧
    (renderStep u).voices[v.val].flt[f.val].cvalid =
      (blockPrepare (resolveMatrix u)).voices[v.val].flt[f.val].cvalid := by
  obtain ⟨-, -, hcaches⟩ := renderVoice_keeps u.cfg u.p u.draw v.val u.cfg.block 0
    (blockPrepare (resolveMatrix u)).voices[v.val]
  obtain ⟨-, hkey, hvalid⟩ := hcaches f
  obtain ⟨hgkey, hgvalid⟩ := nanGuard_keeps (unguarded u v f)
  rw [renderStep_flt]
  exact ⟨hgkey.trans hkey, hgvalid.trans hvalid⟩

/-- An effective value is not a NaN: the resolution clamps it (R11, R131). -/
theorem readEff_resolveVoice_not_isNaN (p : Vector F32 59) (gsrc : Vector F32 5) (slots : List Slot) (vc : Voice)
    {pid : Pid} {i : Fin 40} (h : effIndex pid = some i) :
    F32.isNaN (readEff p (resolveVoice p gsrc slots vc) pid) = false := by
  simp only [readEff, h, resolveVoice, effRegs_getElem _ h]
  obtain ⟨hlo, -⟩ := inRange_iff.mp (inRange_clamp (F32.add (readParam p pid) (localAcc gsrc slots vc pid))
    (paramRange_le pid))
  obtain ⟨-, hnan, -⟩ := f32_le_iff.mp hlo
  exact hnan

/-- Settles O53: the preparation keys the caches, and neither the samples nor the guard write them. -/
theorem filterKeysFollowParameters : Obligations.FilterKeysFollowParameters := by
  intro s u t hticks hu h v f hs
  obtain rfl := eq_renderStep_of_drain hticks hu h
  have hnan {pid : Pid} {i : Fin 40} (hi : effIndex pid = some i) :=
    readEff_resolveVoice_not_isNaN u.p u.gsrc u.slots u.voices[v.val] hi
  have hprep := keyedTo_prepareVoice u.cfg u.draw v.val
    (vc := resolveVoice u.p u.gsrc u.slots u.voices[v.val]) hs (f := f) (hnan rfl) (hnan rfl)
  rw [← blockPrepare_resolveMatrix_voice] at hprep
  obtain ⟨hkey, hvalid⟩ := renderStep_key u v f
  exact keyedTo_congr (renderStep_eff u v) hkey hvalid hprep

/-! ### The end of a release (R97) -/

/-- A sample of a voice that does not fade keeps the stage, unless a release has ended (R97). -/
theorem voiceSample_stage_of_no_fade (c : Params) (p : Vector F32 59) (d v n : Nat) {vc : Voice} (hf : vc.fade = 0) :
    (voiceSample c p d v n vc).1.stage =
      if vc.stage = .releasing ∧ releaseEnded c (voiceSample c p d v n vc).1 = true then .idle else vc.stage := by
  obtain ⟨hi, e⟩ | ⟨-, hf', -⟩ | ⟨-, hf', -⟩ | ⟨-, hf', -⟩ | ⟨hr, -, hend, e⟩ | ⟨-, -, hnot, e⟩ :=
    voiceSample_cases c p d v n vc
  · rw [e, if_neg (by simp [hi])]
  · omega
  · omega
  · omega
  · rw [e]
    exact (if_pos ⟨hr, hend⟩).symm
  · rw [e, if_neg hnot]
    rfl

theorem releaseEnded_iff (c : Params) (vc : Voice) :
    releaseEnded c vc = true ↔ ∀ e ∈ c.relevantEnv, vc.env[e.val].stage = .idle := by
  simp [releaseEnded]

/-- Settles O48: without a fade the end of a release is all that changes a stage. -/
theorem releaseEndsWithEnvelopes : Obligations.ReleaseEndsWithEnvelopes := by
  refine fun c p d v n vc hf => ⟨fun hs => ?_, fun hs => ?_⟩
  · rw [voiceSample_stage_of_no_fade c p d v n hf, if_neg (by simp [hs]), hs]
  · rw [voiceSample_stage_of_no_fade c p d v n hf]
    simp only [hs, true_and, releaseEnded_iff]

end Sys2Proof.Machine
end

section
namespace Sys2Proof.Machine

/-! ## Two machines that agree on one voice (R88, R149) -/

/-- Two states agree on voice `v`, on the parameters of R6, on what all voices share and on the draw counter (log
entry 5). -/
structure AgreeOn (v : Fin 32) (a b : State) : Prop where
  cfg : a.cfg = b.cfg
  p : a.p = b.p
  slots : a.slots = b.slots
  gsrc : a.gsrc = b.gsrc
  draw : a.draw = b.draw
  voice : a.voices[v.val] = b.voices[v.val]

section
variable {v : Fin 32} {a b : State}

theorem AgreeOn.reject (h : AgreeOn v a b) (c : Cause) : AgreeOn v (reject c a) (reject c b) :=
  ⟨h.cfg, h.p, h.slots, h.gsrc, h.draw, h.voice⟩

theorem AgreeOn.writeParamReg (h : AgreeOn v a b) (pid : Pid) (x : F32) :
    AgreeOn v (writeParamReg pid x a) (writeParamReg pid x b) :=
  { h with p := by rw [writeParamReg_p, writeParamReg_p, h.p] }

theorem AgreeOn.updateSlot (h : AgreeOn v a b) (i : Nat) (f : Slot → Slot) :
    AgreeOn v (updateSlot i f a) (updateSlot i f b) :=
  { h with slots := by rw [updateSlot_slots, updateSlot_slots, h.slots] }

theorem AgreeOn.writeGsrc (h : AgreeOn v a b) (i : Fin 5) (x : F32) : AgreeOn v (writeGsrc i x a) (writeGsrc i x b) :=
  { h with gsrc := by rw [writeGsrc_gsrc, writeGsrc_gsrc, h.gsrc] }

/-- Voice `v` after an update of any voice depends on voice `v` before it only. -/
theorem AgreeOn.updateVoice (h : AgreeOn v a b) (u : Fin 32) (f : Voice → Voice) :
    AgreeOn v (updateVoice u f a) (updateVoice u f b) :=
  { h with
    voice := by
      rw [updateVoice_getElem, updateVoice_getElem]
      split
      next e => rw [← e, h.voice]
      · exact h.voice }

/-- The same checks before effects that keep the agreement keep it (R71, R139). -/
theorem AgreeOn.performed (h : AgreeOn v a b) {α : Type} (k : Except Cause α) {f g : α → State → State}
    (effect : ∀ x, AgreeOn v (f x a) (g x b)) : AgreeOn v (performed k f a) (performed k g b) := by
  cases k with
  | ok x => exact effect x
  | error c => exact h.reject c

/-- A command keeps the agreement: its checks read its operands and the number of slots, its effect what it
updates. -/
theorem AgreeOn.exec (h : AgreeOn v a b) {i : Instr} {a' b' : State} (ha : exec i a = .next a')
    (hb : exec i b = .next b') : AgreeOn v a' b' := by
  cases i with
  | nop => cases ha; cases hb; exact h
  | writeParam =>
    cases ha; cases hb
    exact h.performed _ fun _ => h.writeParamReg _ _
  | noteOn | noteOff | setLsrc =>
    cases ha; cases hb
    exact h.performed _ fun _ => h.updateVoice _ _
  | steal =>
    cases ha; cases hb
    rw [h.cfg]
    exact h.performed _ fun _ => h.updateVoice _ _
  | slotRoute | slotIntensity =>
    cases ha; cases hb
    rw [h.cfg]
    exact h.performed _ fun _ => h.updateSlot _ _
  | setGsrc =>
    cases ha; cases hb
    exact h.performed _ fun _ => h.writeGsrc _ _

/-- A word applied keeps the agreement (R75). -/
theorem AgreeOn.apply (h : AgreeOn v a b) {w : Word} {a' b' : State} (ha : apply w a = .next a')
    (hb : apply w b = .next b') : AgreeOn v a' b' := by
  unfold Machine.apply at ha hb
  cases hw : decodeWord w with
  | ok i =>
    rw [hw] at ha hb
    exact h.exec ha hb
  | error c =>
    rw [hw] at ha hb
    rw [next_inj ha, next_inj hb]
    exact h.reject c

/-- Applying the same words keeps the agreement (R55). -/
theorem AgreeOn.applyAll {ws : List Word} (h : AgreeOn v a b) {a' b' : State} (ha : applyAll ws a = .next a')
    (hb : applyAll ws b = .next b') : AgreeOn v a' b' := by
  induction ws generalizing a b with
  | nil => rwa [next_inj ha, next_inj hb]
  | cons w ws ih =>
    obtain ⟨a₁, ha₁⟩ := apply_next w a
    obtain ⟨b₁, hb₁⟩ := apply_next w b
    simp only [Machine.applyAll, ha₁, hb₁] at ha hb
    exact ih (h.apply ha₁ hb₁) ha hb

/-- Draining the same queue keeps the agreement (R55). -/
theorem AgreeOn.queueDrain (h : AgreeOn v a b) (hq : a.q = b.q) {a' b' : State} (ha : queueDrain a = .next a')
    (hb : queueDrain b = .next b') : AgreeOn v a' b' := by
  rw [Machine.queueDrain, hq] at ha
  exact AgreeOn.applyAll (a := { a with q := [] }) (b := { b with q := [] }) { h with } ha hb

/-- A rendering gives the voice the machines agree on the same buffer and state, and them the same volume (R88). -/
theorem AgreeOn.renderStep (h : AgreeOn v a b) :
    (renderStep a).out[v.val] = (renderStep b).out[v.val] ∧
    (renderStep a).voices[v.val] = (renderStep b).voices[v.val] ∧
    (renderStep a).effVolume = (renderStep b).effVolume := by
  obtain ⟨hcfg, hp, hslots, hgsrc, hdraw, hvoice⟩ := h
  refine ⟨?_, ?_, ?_⟩
  · rw [renderStep_out, renderStep_out, hcfg, hp, hslots, hgsrc, hdraw, hvoice]
  · rw [renderStep_voice, renderStep_voice, hcfg, hp, hslots, hgsrc, hdraw, hvoice]
  · rw [renderStep_effVolume, renderStep_effVolume, resolveMatrix, resolveMatrix, hp, hslots, hgsrc]

end

/-- Settles O40: the drain keeps the agreement of the two machines on the voice, and the rendering of a voice depends on
nothing else. -/
theorem voicesDoNotInterfere : Obligations.VoicesDoNotInterfere := by
  intro s₁ s₂ t₁ t₂ v hticks₁ hticks₂ hcfg hp hslots hgsrc hq hdraw hvoice h₁ h₂
  obtain ⟨u₁, hu₁, rfl⟩ := step_of_ticks hticks₁ h₁
  obtain ⟨u₂, hu₂, rfl⟩ := step_of_ticks hticks₂ h₂
  have h : AgreeOn v (atTick s₁) (atTick s₂) := ⟨hcfg, hp, hslots, hgsrc, hdraw, hvoice⟩
  exact (h.queueDrain hq hu₁ hu₂).renderStep

end Sys2Proof.Machine
end

section
namespace Sys2Proof.Machine

/-! ## The oscillators: table fallbacks, a phase's advance, and sync

### Table fallbacks (R106) -/

/-- A count over three oscillators is the sum of its three contributions. -/
theorem ofNat_length_filter_three (missing : Fin 3 → Prop) [DecidablePred missing] :
    BitVec.ofNat 32 ((List.finRange 3).filter (fun k => decide (missing k))).length =
      (if missing 0 then 1 else 0) + (if missing 1 then 1 else 0) + (if missing 2 then 1 else 0) := by
  rw [← List.countP_eq_length_filter, show List.finRange 3 = [2, 1, 0].reverse by decide, List.countP_reverse]
  simp only [List.countP_cons, List.countP_nil, decide_eq_true_eq, BitVec.ofNat_add, apply_ite (BitVec.ofNat 32),
    BitVec.zero_add]
  rfl

/-- A rendering counts the oscillators without a table of their own (R106). -/
theorem renderStep_fallback (u : State) :
    (renderStep u).cnt.fallback = u.cnt.fallback + BitVec.ofNat 32 ((List.finRange 3).filter
      (fun k => decide (u.cfg.nTables ≤ intParam u.p (.osc k .table)))).length := by
  rw [ofNat_length_filter_three, renderStep_cnt]
  simp only [BitVec.add_assoc]

/-- STATUS bit 3 after a block (R106). -/
theorem renderStep_status_fbk (u : State) :
    (renderStep u).status &&& statusFbk =
      if ∃ k : Fin 3, u.cfg.nTables ≤ intParam u.p (.osc k .table) then statusFbk else u.status &&& statusFbk := by
  have hany : (∃ k : Fin 3, u.cfg.nTables ≤ intParam u.p (.osc k .table)) ↔
      u.cfg.nTables ≤ intParam u.p (.osc 0 .table) ∨ u.cfg.nTables ≤ intParam u.p (.osc 1 .table) ∨
        u.cfg.nTables ≤ intParam u.p (.osc 2 .table) := by
    simp [Fin.exists_fin_succ]
  simp only [renderStep_status, hany]
  generalize u.status = x
  split <;> split <;> revert x <;> decide

/-- A drain leaves STATUS bit 3 (R139). -/
theorem queueDrain_status_fbk {s u : State} (h : queueDrain s = .next u) :
    u.status &&& statusFbk = s.status &&& statusFbk := by
  obtain ⟨-, -, -, -, -, -, -, -, e | e⟩ := queueDrain_keeps h <;> rw [e]
  generalize s.status = x
  revert x
  decide

/-- Settles O42: the drain keeps the tables, the counter and the flag, and the preparation checks each oscillator. -/
theorem fallbacksAreCounted : Obligations.FallbacksAreCounted := by
  intro s t hticks h
  obtain ⟨u, hu, rfl⟩ := step_of_ticks hticks h
  obtain ⟨hcfg, -, -, -, -, -, hfallback, -⟩ := queueDrain_keeps hu
  rw [renderStep_p, show s.cfg = u.cfg from hcfg.symm]
  refine ⟨?_, fun hmissing => ?_, fun hloaded => ?_⟩
  · rw [renderStep_fallback, hfallback]
    rfl
  · rw [renderStep_status_fbk, if_pos hmissing]
  · rw [renderStep_status_fbk, if_neg fun ⟨k, hk⟩ => (hloaded k).not_ge hk]
    exact queueDrain_status_fbk (s := atTick s) hu

/-! ### The advance of a phase (R103, R104) -/

/-- An exact result that is a binary32 value is not changed by rounding (R9). -/
theorem valueOf_of_roundsTo_valueOf {c r : F32} (hc : F32.isFinite c = true) (h : RoundsTo (valueOf c) r) :
    valueOf r = valueOf c := by
  rw [RoundsTo, if_neg (not_le.mpr (abs_valueOf_lt hc))] at h
  have hnear := (h.2 c hc).1
  rw [sub_self, abs_zero] at hnear
  exact sub_eq_zero.mp (abs_nonpos_iff.mp hnear)

/-- A multiple of a power of two by at most 24 bits is a grid point. -/
theorem exists_gridUnits_eq (k : Nat) {j : Nat} (hj : j ≤ 2 ^ 24) : ∃ m, gridUnits m = j * 2 ^ k := by
  induction k generalizing j with
  | zero => exact ⟨j, by rw [gridUnits_of_le hj, pow_zero, mul_one]⟩
  | succ k ih =>
    by_cases hlo : 2 ^ 23 ≤ j
    · exact ⟨_, gridUnits_binade (k + 1) hlo hj⟩
    · obtain ⟨m, hm⟩ := ih (j := j * 2) (by omega)
      exact ⟨m, by rw [hm, pow_succ']; ring⟩

/-- A value from 1 to 2 is a 24-bit multiple of the last place of 1. -/
theorem valueOf_of_one_le {x : F32} (h : inRange x F32.one F32.two = true) :
    ∃ j : Nat, j ≤ 2 ^ 23 ∧ valueOf x = 1 + j / 2 ^ 23 := by
  obtain ⟨hlo, hhi⟩ := inRange_iff.mp h
  obtain ⟨-, -, hlo⟩ := f32_le_iff.mp hlo
  obtain ⟨-, -, hhi⟩ := f32_le_iff.mp hhi
  rw [show F32.key F32.one = 0x3F800000 by decide] at hlo
  rw [show F32.key F32.two = 0x40000000 by decide] at hhi
  cases hs : F32.sign x with
  | true =>
    rw [F32.key, if_pos hs] at hlo
    omega
  | false =>
    rw [F32.key, hs, if_neg Bool.false_ne_true] at hlo hhi
    obtain ⟨j, hj⟩ : ∃ j, F32.mag x = 126 * 2 ^ 23 + (2 ^ 23 + j) := ⟨F32.mag x - 0x3F800000, by omega⟩
    refine ⟨j, by omega, ?_⟩
    rw [valueOf_eq, hs, signed_false, hj, gridValue, gridUnits_binade 126 (by omega) (by omega)]
    push_cast
    ring

/-- Fractions of the last place of 1 are values. -/
theorem exists_valueOf_eq {j : Nat} (hj : j ≤ 2 ^ 23) :
    ∃ c : F32, F32.isFinite c = true ∧ valueOf c = j / 2 ^ 23 := by
  obtain ⟨m, hm⟩ := exists_gridUnits_eq 126 (j := j) (by omega)
  have hlt : m < 0x7F800000 := gridUnits_strictMono.lt_iff_lt.mp (by rw [hm, gridUnits_inf]; omega)
  refine ⟨F32.ofMag false m, decide_eq_true (by rwa [mag_ofMag _ (by omega)]), ?_⟩
  rw [valueOf_eq, sign_ofMag _ (by omega), mag_ofMag _ (by omega), signed_false, gridValue, hm]
  push_cast
  ring

/-- From 1 to 2, subtracting 1 is exact. -/
theorem valueOf_sub_one {x : F32} (h : inRange x F32.one F32.two = true) :
    valueOf (F32.sub x F32.one) = valueOf x - 1 := by
  obtain ⟨j, hj, hx⟩ := valueOf_of_one_le h
  obtain ⟨c, hc, hvalue⟩ := exists_valueOf_eq hj
  have hsum : valueOf x + valueOf F32.minusOne = valueOf c := by rw [hx, valueOf_minusOne, hvalue]; ring
  have hround := (addRounds x F32.minusOne (isFinite_of_inRange (by decide) (by decide) h) (by decide)).1
  rw [hsum] at hround
  rw [F32.sub, show F32.neg F32.one = F32.minusOne by decide, valueOf_of_roundsTo_valueOf hc hround, hvalue, hx]
  ring

theorem valueOf_two : valueOf F32.two = 2 := valueOf_of_toUnits (z := 2) (by decide)

/-- A phase and an increment add up to at most 2. -/
theorem add_phase_le_two {ph inc : F32} (hph : inUnit ph = true) (hinc : inRange inc F32.zero F32.half = true) :
    F32.le (F32.add ph inc) F32.two = true := by
  obtain ⟨hph0, hph1⟩ := inUnit_iff.mp hph
  have hphRange := inRange_iff.mpr ⟨hph0, f32_le_of_lt hph1⟩
  obtain ⟨hp, hp'⟩ := valueOf_bounds_of_inRange hphRange
  obtain ⟨hi, hi'⟩ := valueOf_bounds_of_inRange hinc
  rw [valueOf_zero] at hp hi
  rw [valueOf_one] at hp'
  rw [valueOf_half] at hi'
  have hsum : inRange (F32.add ph inc) F32.zero F32.two = true :=
    inRange_add (isFinite_of_inRange (by decide) (by decide) hphRange)
      (isFinite_of_inRange (by decide) (by decide) hinc) (by decide) (by decide)
      (by rw [valueOf_zero]; linarith) (by rw [valueOf_two]; linarith)
  exact (inRange_iff.mp hsum).2

/-- An advanced phase is the rounded sum, less exactly 1 if it wrapped (R104). -/
theorem valueOf_advance {ph inc : F32} (hph : inUnit ph = true) (hinc : inRange inc F32.zero F32.half = true) :
    valueOf (advance ph inc).1 = valueOf (F32.add ph inc) - if (advance ph inc).2 = true then 1 else 0 := by
  unfold advance
  split
  case isTrue hwrap =>
    rw [if_pos rfl]
    exact valueOf_sub_one (inRange_iff.mpr ⟨hwrap, add_phase_le_two hph hinc⟩)
  case isFalse => rw [if_neg Bool.false_ne_true, sub_zero]

/-- Settles O51: the increment is a clamped value, and subtracting 1 from a sum between 1 and 2 is exact. -/
theorem advanceStaysInUnitInterval : Obligations.AdvanceStaysInUnitInterval := fun c semis _ hph =>
  have hinc := inRange_phaseInc c semis
  ⟨hinc, inUnit_advance hph hinc, valueOf_advance hph hinc⟩

/-! ### Sync (R105, R110) -/

/-- A phase after a sample of its oscillator (R104, R105, R110). -/
theorem oscSample_ph (c : Params) (q : OscParams) (note : BitVec 7) (wraps : List Bool) (d : Nat) (site : NanSite)
    (o : Osc) (i : Fin 7) :
    (oscSample c q note wraps d site o).osc.ph[i.val] =
      if i.val < q.unison then
        (if syncing q wraps = true then F32.zero else (advance o.ph[i.val] (oscInc c q note i.val)).1)
      else o.ph[i.val] := by
  rw [oscSample, oscPhases, getElem_vmapIdx]

/-- The wrap event of an oscillator whose UNISON is not 0 (R105, R110). -/
theorem oscSample_wrap (c : Params) {q : OscParams} (note : BitVec 7) (wraps : List Bool) (d : Nat) (site : NanSite)
    (o : Osc) (h : 0 < q.unison) :
    (oscSample c q note wraps d site o).wrap = ((advance o.ph[0] (oscInc c q note 0)).2 || syncing q wraps) := by
  simp [oscSample, oscWrap, h]

/-- Oscillator 0 has no leader below it (R105). -/
theorem syncing_nil (q : OscParams) : syncing q [] = false := by simp [syncing]

/-- Oscillator 1 follows oscillator 0 only (R105). -/
theorem syncing_singleton_iff (q : OscParams) (w : Bool) :
    syncing q [w] = true ↔ q.sync = 1 ∧ q.syncLeader = 0 ∧ w = true := by
  cases hl : q.syncLeader <;> simp [syncing, hl]

/-- Oscillator 2 follows oscillator 0 or 1 (R105). -/
theorem syncing_pair_iff (q : OscParams) (w₀ w₁ : Bool) :
    syncing q [w₀, w₁] = true ↔
      q.sync = 1 ∧ (q.syncLeader = 0 ∧ w₀ = true ∨ q.syncLeader = 1 ∧ w₁ = true) := by
  obtain hl | hl | hl : q.syncLeader = 0 ∨ q.syncLeader = 1 ∨ 2 ≤ q.syncLeader := by omega
  · simp [syncing, hl]
  · simp [syncing, hl]
  · have hnone : [w₀, w₁][q.syncLeader]? = none := List.getElem?_eq_none hl
    have h0 : q.syncLeader ≠ 0 := by omega
    have h1 : q.syncLeader ≠ 1 := by omega
    simp [syncing, hnone, h0, h1]

/-- Settles O52: each oscillator's sample, with `syncing` said of the wrap events it is given. -/
theorem syncResetsFollower : Obligations.SyncResetsFollower := by
  intro c p d v n vc i
  refine ⟨?_, ?_, ?_, fun h => ?_, fun h => ?_⟩
  · refine (oscSample_ph _ _ _ _ _ _ _ i).trans ?_
    rw [syncing_nil, if_neg Bool.false_ne_true]
    rfl
  · exact (oscSample_ph _ _ _ _ _ _ _ i).trans
      (if_congr Iff.rfl (if_congr (syncing_singleton_iff _ _) rfl rfl) rfl)
  · exact (oscSample_ph _ _ _ _ _ _ _ i).trans
      (if_congr Iff.rfl (if_congr (syncing_pair_iff _ _ _) rfl rfl) rfl)
  · refine (oscSample_wrap c vc.note [] d _ _ h).trans ?_
    rw [syncing_nil, Bool.or_false]
  · rw [show (stepOscs c p d v n vc).2.1.wrap = _ from oscSample_wrap c vc.note _ d _ _ h, Bool.or_eq_true,
      syncing_singleton_iff]
    rfl

end Sys2Proof.Machine
end

section
namespace Sys2Proof.Machine

/-! ## Operations keep the order of binary32 values

Rounding never reverses two exact results, so that an operation that is monotone on rationals is monotone here (R9). -/

theorem f32_le_trans {a b c : F32} (hab : F32.le a b = true) (hbc : F32.le b c = true) : F32.le a c = true := by
  obtain ⟨ha, -, hk⟩ := f32_le_iff.mp hab
  obtain ⟨-, hc, hk'⟩ := f32_le_iff.mp hbc
  exact f32_le_iff.mpr ⟨ha, hc, hk.trans hk'⟩

theorem valueOf_le_of_le {a b : F32} (h : F32.le a b = true) : valueOf a ≤ valueOf b :=
  (valueOf_le_valueOf_iff a b).mpr (f32_le_iff.mp h).2.2

/-! ### Rounding keeps the order -/

theorem valueOf_lt_valueOf_iff (a b : F32) : valueOf a < valueOf b ↔ F32.key a < F32.key b :=
  lt_iff_lt_of_le_iff_le (valueOf_le_valueOf_iff b a)

/-- Every key short of infinity's is the key of a finite value. -/
theorem exists_key_eq {k : ℤ} (h : k.natAbs < 0x7F800000) : ∃ c : F32, F32.isFinite c = true ∧ F32.key c = k := by
  have hmag (neg : Bool) : F32.mag (F32.ofMag neg k.natAbs) = k.natAbs := mag_ofMag neg (by omega)
  refine ⟨F32.ofMag (decide (k < 0)) k.natAbs, decide_eq_true (by rwa [hmag]), ?_⟩
  rw [F32.key, hmag, sign_ofMag _ (by omega)]
  simp only [decide_eq_true_eq]
  split <;> omega

/-- A value with even bits has an even key. -/
theorem even_key_of_even_toNat {x : F32} (h : x.toNat % 2 = 0) : F32.key x % 2 = 0 := by
  have := natAbs_key x
  rw [F32.mag] at this
  omega

/-- A finite rounded value is at least as near as any other finite value, and even if it ties (R9). -/
theorem roundsTo_nearest {q : ℚ} {r c : F32} (h : RoundsTo q r) (hr : F32.isFinite r = true)
    (hc : F32.isFinite c = true) : |valueOf r - q| ≤ |valueOf c - q| ∧
      (valueOf c ≠ valueOf r → |valueOf r - q| = |valueOf c - q| → r.toNat % 2 = 0) := by
  unfold RoundsTo at h
  split at h
  · rw [not_isInf_of_isFinite hr] at h
    cases h.1
  · exact h.2 c hc

/-- A point nearer to the greater of two numbers is not below their midpoint. -/
theorem add_le_two_mul_of_abs_sub_le {a b q : ℚ} (hab : a < b) (h : |b - q| ≤ |a - q|) : a + b ≤ 2 * q := by
  have := sq_le_sq.mpr h
  nlinarith

/-- A point nearer to the lesser of two numbers is not above their midpoint. -/
theorem two_mul_le_add_of_abs_sub_le {a b q : ℚ} (hab : a < b) (h : |a - q| ≤ |b - q|) : 2 * q ≤ a + b := by
  have := sq_le_sq.mpr h
  nlinarith

/-- Rounding keeps the order of exact results. Reversed answers could only both tie at the same midpoint; both would be
even, and the value between them would be nearer. -/
theorem le_of_roundsTo_le {q q' : ℚ} {r r' : F32} (h : RoundsTo q r) (h' : RoundsTo q' r')
    (hr : F32.isFinite r = true) (hr' : F32.isFinite r' = true) (hq : q ≤ q') : F32.le r r' = true := by
  rw [f32_le_iff_valueOf (not_isNaN_of_isFinite hr) (not_isNaN_of_isFinite hr')]
  by_contra hlt
  rw [not_le] at hlt
  obtain ⟨hnear, htie⟩ := roundsTo_nearest h hr hr'
  obtain ⟨hnear', htie'⟩ := roundsTo_nearest h' hr' hr
  have hmid := add_le_two_mul_of_abs_sub_le hlt hnear
  have hmid' := two_mul_le_add_of_abs_sub_le hlt hnear'
  obtain rfl : q = q' := by linarith
  have hdist : |valueOf r - q| = |valueOf r' - q| := le_antisymm hnear hnear'
  have heven := even_key_of_even_toNat (htie hlt.ne hdist)
  have heven' := even_key_of_even_toNat (htie' hlt.ne' hdist.symm)
  have hkey := (valueOf_lt_valueOf_iff r' r).mp hlt
  obtain ⟨c, hc, hck⟩ : ∃ c : F32, F32.isFinite c = true ∧ F32.key c = F32.key r' + 1 := by
    rw [F32.isFinite, decide_eq_true_eq, ← natAbs_key] at hr hr'
    exact exists_key_eq (by omega)
  have hbelow : valueOf c < valueOf r := (valueOf_lt_valueOf_iff c r).mpr (by omega)
  have habove : valueOf r' < valueOf c := (valueOf_lt_valueOf_iff r' c).mpr (by omega)
  have := add_le_two_mul_of_abs_sub_le hbelow (roundsTo_nearest h hr hc).1
  linarith

/-- `clamp` as the maximum and minimum of keys (R11). -/
theorem key_clamp {x lo hi : F32} (hx : F32.isNaN x = false) (hle : F32.le lo hi = true) :
    F32.key (F32.clamp x lo hi) = max (F32.key lo) (min (F32.key x) (F32.key hi)) := by
  obtain ⟨hlo, hhi, hk⟩ := f32_le_iff.mp hle
  rw [F32.clamp, hx, if_neg Bool.false_ne_true]
  simp only [f32_lt_iff, hx, hlo, hhi, true_and]
  split_ifs <;> omega

/-- `clamp` keeps the order of values (R11). -/
theorem clamp_le_clamp {x y lo hi : F32} (hxy : F32.le x y = true) (hle : F32.le lo hi = true) :
    F32.le (F32.clamp x lo hi) (F32.clamp y lo hi) = true := by
  obtain ⟨hx, hy, hk⟩ := f32_le_iff.mp hxy
  obtain ⟨-, hcx⟩ := inRange_iff.mp (inRange_clamp x hle)
  obtain ⟨-, hcy⟩ := inRange_iff.mp (inRange_clamp y hle)
  refine f32_le_iff.mpr ⟨(f32_le_iff.mp hcx).1, (f32_le_iff.mp hcy).1, ?_⟩
  rw [key_clamp hx hle, key_clamp hy hle]
  exact max_le_max le_rfl (min_le_min hk le_rfl)

/-- `clamp` leaves a value of its range (R11). -/
theorem clamp_of_inRange {x lo hi : F32} (h : inRange x lo hi = true) : F32.clamp x lo hi = x := by
  obtain ⟨hlo, hhi⟩ := inRange_iff.mp h
  have not_lt_of_le {a b : F32} (hab : F32.le a b = true) : F32.lt b a = false := by
    rw [Bool.eq_false_iff]
    exact fun hba => (f32_lt_iff.mp hba).2.2.not_ge (f32_le_iff.mp hab).2.2
  exact clamp_of_between (f32_le_iff.mp hhi).1 (not_lt_of_le hlo) (not_lt_of_le hhi)

/-! ### Natural numbers and differences from 1 -/

theorem ofNat_roundsTo (n : Nat) : RoundsTo n (F32.ofNat n) := ofInt_roundsTo n

theorem isFinite_ofNat {n : Nat} (h : n ≤ 2 ^ 24) : F32.isFinite (F32.ofNat n) = true := by
  have hn : (n : ℚ) ≤ 2 ^ 24 := by exact_mod_cast h
  have hround := ofNat_roundsTo n
  rw [RoundsTo, if_neg (by rw [abs_of_nonneg n.cast_nonneg]; linarith)] at hround
  exact hround.1

theorem ofNat_zero : F32.ofNat 0 = F32.zero := by decide

theorem ofNat_one : F32.ofNat 1 = F32.one := by decide

theorem ofNat_le_ofNat {n m : Nat} (h : n ≤ m) (hm : m ≤ 2 ^ 24) : F32.le (F32.ofNat n) (F32.ofNat m) = true :=
  le_of_roundsTo_le (ofNat_roundsTo n) (ofNat_roundsTo m) (isFinite_ofNat (h.trans hm)) (isFinite_ofNat hm)
    (by exact_mod_cast h)

theorem valueOf_neg (x : F32) : valueOf (F32.neg x) = -valueOf x := by
  rw [valueOf_eq, valueOf_eq, F32.neg, sign_ofMag _ (mag_lt x), mag_ofMag _ (mag_lt x)]
  cases F32.sign x <;> simp

theorem isFinite_neg {x : F32} (h : F32.isFinite x = true) : F32.isFinite (F32.neg x) = true := by
  rwa [F32.isFinite, F32.neg, mag_ofMag _ (mag_lt x)]

theorem isFinite_of_inRange_unit {x : F32} (h : inRange x F32.zero F32.one = true) : F32.isFinite x = true :=
  isFinite_of_inRange (by decide) (by decide) h

theorem valueOf_bounds_of_inRange_unit {x : F32} (h : inRange x F32.zero F32.one = true) :
    0 ≤ valueOf x ∧ valueOf x ≤ 1 := by
  have := valueOf_bounds_of_inRange h
  rwa [valueOf_zero, valueOf_one] at this

/-- `1 - x` of a value in `[0, 1]` lies in `[0, 1]`. -/
theorem inRange_one_sub {x : F32} (h : inRange x F32.zero F32.one = true) :
    inRange (F32.sub F32.one x) F32.zero F32.one = true := by
  obtain ⟨h0, h1⟩ := valueOf_bounds_of_inRange_unit h
  refine inRange_add (by decide) (isFinite_neg (isFinite_of_inRange_unit h)) (by decide) (by decide) ?_ ?_
  · rw [valueOf_zero, valueOf_neg, valueOf_one]; linarith
  · rw [valueOf_neg, valueOf_one]; linarith

/-- The product of two values in `[0, 1]` lies in `[0, 1]`. -/
theorem inRange_mul {a b : F32} (ha : inRange a F32.zero F32.one = true) (hb : inRange b F32.zero F32.one = true) :
    inRange (F32.mul a b) F32.zero F32.one = true := by
  obtain ⟨ha0, ha1⟩ := valueOf_bounds_of_inRange_unit ha
  obtain ⟨hb0, hb1⟩ := valueOf_bounds_of_inRange_unit hb
  refine inRange_of_roundsTo (mulRounds a b (isFinite_of_inRange_unit ha) (isFinite_of_inRange_unit hb)).1
    (by decide) (by decide) ?_ ?_
  · rw [valueOf_zero]; positivity
  · rw [valueOf_one]; exact mul_le_one₀ ha1 hb0 hb1

end Sys2Proof.Machine
end

section
namespace Sys2Proof.Machine

/-! ## The envelope: its transition table, and a linear attack -/

/-! ### Events and samples, by the stage (R119 to R122, R126) -/

section
variable {c : Params} {q : EnvParams} {e : Env}

/-- A timed segment before its last sample: one more sample, on the clamped curve (R121). -/
theorem envTimed_of_lt {d : Nat} (target : F32) (curve : F32 → F32) (h : e.t + 1 < d) :
    envTimed d target curve e = ⟨e.stage,
      F32.clamp (curve (F32.div (F32.ofNat (e.t + 1)) (F32.ofNat d))) F32.zero F32.one, e.start, e.t + 1⟩ :=
  if_neg h.not_ge

/-- The last sample of a timed segment ends it at its target (R121). -/
theorem envTimed_of_le {d : Nat} (target : F32) (curve : F32 → F32) (h : d ≤ e.t + 1) :
    envTimed d target curve e = ⟨envNext e.stage, target, target, 0⟩ := if_pos h

theorem envStep_idle (hs : e.stage = .idle) : envStep c q e = e := by rw [envStep, hs]

theorem envStep_sustain (hs : e.stage = .sustain) : envStep c q e = { e with level := q.sustain } := by
  have : envStep c q e = envSustain q e := by rw [envStep, hs]
  exact this

theorem envStep_attack_eq (hs : e.stage = .attack) : envStep c q e = envAttack c q e := by rw [envStep, hs]

theorem envStep_decay_eq (hs : e.stage = .decay) : envStep c q e = envDecay c q e := by rw [envStep, hs]

theorem envStep_release_eq (hs : e.stage = .release) : envStep c q e = envRelease c q e := by rw [envStep, hs]

/-- An attack of no samples is a sample of Decay from the top (R121). -/
theorem envStep_attack_of_zero (hs : e.stage = .attack) (h : segLen c q.attack = 0) :
    envStep c q e = envStep c q ⟨.decay, F32.one, F32.one, 0⟩ := by
  rw [envStep_attack_eq hs, envAttack, if_pos h, envFinish, hs]; rfl

theorem envStep_attack_of_le (hs : e.stage = .attack) (hd : 0 < segLen c q.attack)
    (h : segLen c q.attack ≤ e.t + 1) : envStep c q e = ⟨.decay, F32.one, F32.one, 0⟩ := by
  rw [envStep_attack_eq hs, envAttack, if_neg hd.ne', envTimed_of_le _ _ h, hs]; rfl

theorem envStep_attack_of_lt (hs : e.stage = .attack) (h : e.t + 1 < segLen c q.attack) :
    envStep c q e = ⟨.attack, F32.clamp (attackCurve c.math e.start q.attackSlope
      (F32.div (F32.ofNat (e.t + 1)) (F32.ofNat (segLen c q.attack)))) F32.zero F32.one, e.start, e.t + 1⟩ := by
  rw [envStep_attack_eq hs, envAttack, if_neg (Nat.ne_zero_of_lt h), envTimed_of_lt _ _ h, hs]

/-- A decay's last sample, and one of no samples, reach Sustain at SUSTAIN (R121). -/
theorem envStep_decay_of_le (hs : e.stage = .decay) (h : segLen c q.decay = 0 ∨ segLen c q.decay ≤ e.t + 1) :
    envStep c q e = ⟨.sustain, q.sustain, q.sustain, 0⟩ := by
  rw [envStep_decay_eq hs, envDecay]
  split
  · rw [envSustain, envFinish, hs]; rfl
  next hd => rw [envTimed_of_le _ _ (h.resolve_left hd), hs]; rfl

theorem envStep_decay_of_lt (hs : e.stage = .decay) (h : e.t + 1 < segLen c q.decay) :
    envStep c q e = ⟨.decay, F32.clamp (fallCurve c.math e.start q.sustain q.decaySlope
      (F32.div (F32.ofNat (e.t + 1)) (F32.ofNat (segLen c q.decay)))) F32.zero F32.one, e.start, e.t + 1⟩ := by
  rw [envStep_decay_eq hs, envDecay, if_neg (Nat.ne_zero_of_lt h), envTimed_of_lt _ _ h, hs]

/-- A release's last sample, and one of no samples, reach Idle at 0 (R121). -/
theorem envStep_release_of_le (hs : e.stage = .release)
    (h : segLen c q.release = 0 ∨ segLen c q.release ≤ e.t + 1) :
    envStep c q e = ⟨.idle, F32.zero, F32.zero, 0⟩ := by
  rw [envStep_release_eq hs, envRelease]
  split
  · rw [envFinish, hs]; rfl
  next hd => rw [envTimed_of_le _ _ (h.resolve_left hd), hs]; rfl

theorem envStep_release_of_lt (hs : e.stage = .release) (h : e.t + 1 < segLen c q.release) :
    envStep c q e = ⟨.release, F32.clamp (fallCurve c.math e.start F32.zero q.releaseSlope
      (F32.div (F32.ofNat (e.t + 1)) (F32.ofNat (segLen c q.release)))) F32.zero F32.one, e.start, e.t + 1⟩ := by
  rw [envStep_release_eq hs, envRelease, if_neg (Nat.ne_zero_of_lt h), envTimed_of_lt _ _ h, hs]

end

/-- Settles O49, entry by entry: the events, the untimed stages, and each timed segment before and at its end. -/
theorem envelopeTransitions : Obligations.EnvelopeTransitions := by
  intro c q e
  refine ⟨rfl, fun hs => ?_, fun hs => ?_, envStep_idle, envStep_sustain,
    fun hs => ⟨envStep_attack_of_zero hs, envStep_attack_of_le hs, envStep_attack_of_lt hs⟩,
    fun hs => ⟨envStep_decay_of_le hs, envStep_decay_of_lt hs⟩,
    fun hs => ⟨envStep_release_of_le hs, envStep_release_of_lt hs⟩⟩
  · rw [envNoteOff_eq, if_pos hs]
  · rw [envNoteOff_eq, if_neg (by obtain h | h | h := hs <;> simp [h])]

/-! ### The run of an attack (R121, R122) -/

/-- The part of a segment of `d` samples that is over after `n` of them, the argument of its curve (R121). -/
def segProgress (d n : Nat) : F32 := F32.div (F32.ofNat n) (F32.ofNat d)

/-- The level `n` samples after an attack of `d` samples started, before its end (R121, R122). -/
def attackLevel (m : MathChoice) (slope start : F32) (d : Nat) : Nat → F32
  | 0 => start
  | n + 1 => F32.clamp (attackCurve m start slope (segProgress d (n + 1))) F32.zero F32.one

section
variable {c : Params} {q : EnvParams} {e : Env} (hs : e.stage = .attack) (ht : e.t = 0) (hstart : e.start = e.level)
include hs ht hstart

/-- An attack stays on its curve until its last sample (R121). -/
theorem envSteps_attack {n : Nat} (h : n < segLen c q.attack) :
    envSteps c q n e = ⟨.attack, attackLevel c.math q.attackSlope e.start (segLen c q.attack) n, e.start, n⟩ := by
  induction n with
  | zero =>
    obtain ⟨stage, level, start, t⟩ := e
    cases hs; cases ht; cases hstart
    rfl
  | succ n ih =>
    rw [envSteps, ih (Nat.lt_of_succ_lt h)]
    exact envStep_attack_of_lt rfl h

/-- An attack ends at the top with its last sample (R121). -/
theorem envSteps_attack_end (h : 0 < segLen c q.attack) :
    envSteps c q (segLen c q.attack) e = ⟨.decay, F32.one, F32.one, 0⟩ := by
  obtain ⟨d, hd⟩ := Nat.exists_eq_succ_of_ne_zero h.ne'
  rw [hd, envSteps, envSteps_attack hs ht hstart (by omega)]
  exact envStep_attack_of_le rfl h hd.le

end

/-! ### A linear attack does not fall (R127) -/

section
variable {d n : Nat} (hd : 0 < d) (hd' : d ≤ 2 ^ 24)
include hd hd'

theorem valueOf_ofNat_pos : 0 < valueOf (F32.ofNat d) := by
  have h := valueOf_le_of_le (ofNat_le_ofNat hd hd')
  rw [ofNat_one, valueOf_one] at h
  linarith

/-- The quotient of `segProgress` is the rounded one (R9). -/
theorem segProgress_roundsTo (h : n ≤ d) :
    RoundsTo (valueOf (F32.ofNat n) / valueOf (F32.ofNat d)) (segProgress d n) :=
  (divRounds _ _ (isFinite_ofNat (h.trans hd')) (isFinite_ofNat hd') (valueOf_ofNat_pos hd hd').ne').1

theorem inRange_segProgress (h : n ≤ d) : inRange (segProgress d n) F32.zero F32.one = true := by
  have hpos := valueOf_ofNat_pos hd hd'
  have hn := valueOf_le_of_le (ofNat_le_ofNat n.zero_le (h.trans hd'))
  rw [ofNat_zero, valueOf_zero] at hn
  refine inRange_of_roundsTo (segProgress_roundsTo hd hd' h) (by decide) (by decide) ?_ ?_
  · rw [valueOf_zero]; exact div_nonneg hn hpos.le
  · rw [valueOf_one, div_le_one₀ hpos]
    exact valueOf_le_of_le (ofNat_le_ofNat h hd')

theorem segProgress_le_succ (h : n + 1 ≤ d) : F32.le (segProgress d n) (segProgress d (n + 1)) = true := by
  have hpos := valueOf_ofNat_pos hd hd'
  refine le_of_roundsTo_le (segProgress_roundsTo hd hd' (Nat.le_of_succ_le h)) (segProgress_roundsTo hd hd' h)
    (isFinite_of_inRange_unit (inRange_segProgress hd hd' (Nat.le_of_succ_le h)))
    (isFinite_of_inRange_unit (inRange_segProgress hd hd' h)) ?_
  gcongr
  exact valueOf_le_of_le (ofNat_le_ofNat n.le_succ (h.trans hd'))

end

section
variable {start p p' : F32} (m : MathChoice) (hstart : inRange start F32.zero F32.one = true)
  (hp : inRange p F32.zero F32.one = true)

/-- With slope 1 the curve of Attack is a straight line (R10, R122). -/
theorem attackCurve_one (start p : F32) :
    attackCurve m start F32.one p = F32.add start (F32.mul (F32.sub F32.one start) p) := by
  rw [attackCurve, powf_one_right]

include hstart hp

/-- The line does not lie below its start; before `clamp` it is bounded by 2. -/
theorem inRange_attackCurve_one : inRange (attackCurve m start F32.one p) start F32.two = true := by
  have hmul := inRange_mul (inRange_one_sub hstart) hp
  obtain ⟨hs, hs'⟩ := valueOf_bounds_of_inRange_unit hstart
  obtain ⟨hm, hm'⟩ := valueOf_bounds_of_inRange_unit hmul
  have hfin := isFinite_of_inRange_unit hstart
  rw [attackCurve_one]
  exact inRange_add hfin (isFinite_of_inRange_unit hmul) hfin (by decide) (by linarith)
    (by rw [valueOf_two]; linarith)

/-- The line does not fall. -/
theorem attackCurve_one_le (hp' : inRange p' F32.zero F32.one = true) (hle : F32.le p p' = true) :
    F32.le (attackCurve m start F32.one p) (attackCurve m start F32.one p') = true := by
  have hgap := inRange_one_sub hstart
  have hfin := isFinite_of_inRange_unit hstart
  have hgapFin := isFinite_of_inRange_unit hgap
  have hmulFin {x : F32} (hx : inRange x F32.zero F32.one = true) := isFinite_of_inRange_unit (inRange_mul hgap hx)
  have hcurveFin {x : F32} (hx : inRange x F32.zero F32.one = true) :=
    isFinite_of_inRange hfin (by decide) (inRange_attackCurve_one m hstart hx)
  have hmul : F32.le (F32.mul (F32.sub F32.one start) p) (F32.mul (F32.sub F32.one start) p') = true :=
    le_of_roundsTo_le (mulRounds _ _ hgapFin (isFinite_of_inRange_unit hp)).1
      (mulRounds _ _ hgapFin (isFinite_of_inRange_unit hp')).1 (hmulFin hp) (hmulFin hp')
      (mul_le_mul_of_nonneg_left (valueOf_le_of_le hle) (valueOf_bounds_of_inRange_unit hgap).1)
  simp only [attackCurve_one] at hcurveFin ⊢
  exact le_of_roundsTo_le (addRounds _ _ hfin (hmulFin hp)).1 (addRounds _ _ hfin (hmulFin hp')).1
    (hcurveFin hp) (hcurveFin hp') (add_le_add_right (valueOf_le_of_le hmul) _)

end

section
variable (m : MathChoice) {start : F32} {d n : Nat} (hstart : inRange start F32.zero F32.one = true)
include hstart

theorem inRange_attackLevel (slope : F32) : inRange (attackLevel m slope start d n) F32.zero F32.one = true :=
  match n with
  | 0 => hstart
  | _ + 1 => inRange_clamp _ (by decide)

/-- With slope 1 no sample of an attack takes the level down: `clamp` leaves the start and keeps the line's order. -/
theorem attackLevel_one_le_succ (hd : d ≤ 2 ^ 24) (h : n + 1 ≤ d) :
    F32.le (attackLevel m F32.one start d n) (attackLevel m F32.one start d (n + 1)) = true := by
  have hprogress {k : Nat} (hk : k ≤ d) := inRange_segProgress (n := k) (by omega) hd hk
  cases n with
  | zero =>
    have hcurve := inRange_attackCurve_one m hstart (hprogress h)
    have hclamp := clamp_le_clamp (inRange_iff.mp hcurve).1 (show F32.le F32.zero F32.one = true by decide)
    rwa [clamp_of_inRange hstart] at hclamp
  | succ n =>
    exact clamp_le_clamp (attackCurve_one_le m hstart (hprogress (by omega)) (hprogress h)
      (segProgress_le_succ (by omega) hd h)) (by decide)

end

/-- 10 ms are 441 samples at 44100 Hz (R118, R127). -/
theorem segLen_ten_ms {c : Params} (h : c.fs = 44100) : segLen c (0x3C23D70A#32) = 441 := by
  rw [segLen, h]; decide

/-- Settles O50: the attack's 441 samples lie on a line that does not fall, and the last one sets the level to 1. -/
theorem attackReachesCeiling : Obligations.AttackReachesCeiling := by
  intro c q e hfs hattack hslope hs ht hstart hlevel
  have hlen : segLen c q.attack = 441 := hattack ▸ segLen_ten_ms hfs
  have hrun {n : Nat} (hn : n < 441) :
      envSteps c q n e = ⟨.attack, attackLevel c.math F32.one e.start 441 n, e.start, n⟩ := by
    have := envSteps_attack hs ht hstart (hlen.symm ▸ hn)
    rwa [hlen, hslope] at this
  have hend : envSteps c q 441 e = ⟨.decay, F32.one, F32.one, 0⟩ :=
    hlen ▸ envSteps_attack_end hs ht hstart (by omega)
  rw [← hstart] at hlevel
  refine ⟨hend, fun t ht' => ⟨by rw [hrun (by omega)], ?_⟩⟩
  obtain rfl | hlt := ht'.eq_or_lt
  · rw [hend, hrun (by norm_num)]
    exact (inRange_iff.mp (inRange_attackLevel c.math hlevel F32.one)).2
  · rw [hrun (by omega), hrun (by omega)]
    exact attackLevel_one_le_succ c.math hlevel (by norm_num) (by omega)

end Sys2Proof.Machine
end

section
namespace Sys2Proof.Machine

/-! ## The modulation matrix

### The sum of the slots' contributions (R130, R131, R134) -/

section
variable (value : Source → F32) (pid : Pid)

theorem contributions_cons (x : Slot) (xs : List Slot) :
    contributions value pid (x :: xs) = contributions value pid [x] ++ contributions value pid xs :=
  List.filterMap_append (l := [x])

/-- A slot's turn adds its contribution to the accumulator, if it has one (R130). -/
theorem addSlot_eq (acc : F32) (x : Slot) :
    addSlot value pid acc x = (contributions value pid [x]).foldl F32.add acc := by
  by_cases h : x.en = true ∧ x.tgt = some pid
  · cases hsrc : x.src <;> simp [addSlot, contributions, paramSpan, h, hsrc]
  · have hskip : ¬(x.en && x.tgt == some pid) = true := by simpa using h
    simp [addSlot, contributions, h, hskip]

theorem foldl_addSlot (slots : List Slot) (acc : F32) :
    slots.foldl (addSlot value pid) acc = (contributions value pid slots).foldl F32.add acc := by
  induction slots generalizing acc with
  | nil => rfl
  | cons x xs ih => rw [List.foldl_cons, ih, addSlot_eq, ← List.foldl_append, ← contributions_cons]

/-- The accumulator of a target is the sum of the contributions to it (R130, R134). -/
theorem accumulate_eq_modSum (slots : List Slot) : accumulate value pid slots = modSum value pid slots :=
  foldl_addSlot value pid slots F32.zero

end

/-- The volume after a block (R131). -/
theorem renderStep_effVolume_eq (u : State) :
    (renderStep u).effVolume =
      effValue (readParam u.p (.glb .volume)) (accumulate (globalSource u.gsrc) (.glb .volume) u.slots)
        (.glb .volume) :=
  renderStep_effVolume u

/-- An effective register of a voice after a block (R131). -/
theorem renderStep_eff_getElem (u : State) (v : Fin 32) {pid : Pid} {i : Fin 40} (h : effIndex pid = some i) :
    (renderStep u).voices[v.val].eff[i.val] =
      effValue (readParam u.p pid) (localAcc u.gsrc u.slots u.voices[v.val] pid) pid := by
  simp only [renderStep_eff, resolveVoice, effRegs_getElem _ h]

/-- Settles O44: a rendering leaves what its resolution gave, and the accumulators are the sums of the contributions. -/
theorem effectiveValuesAfterBlock : Obligations.EffectiveValuesAfterBlock := by
  intro s u t hticks hu h
  obtain rfl := eq_renderStep_of_drain hticks hu h
  refine ⟨?_, fun v pid i hi hs => ?_⟩
  · rw [renderStep_effVolume_eq, accumulate_eq_modSum]
    rfl
  · rw [renderStep_eff_getElem u v hi, localAcc, if_neg hs, accumulate_eq_modSum]
    rfl

/-! ### Idle voices (R131, R133) -/

theorem isFinite_paramRange (pid : Pid) :
    F32.isFinite (paramRange pid).1 = true ∧ F32.isFinite (paramRange pid).2 = true := by
  cases pid with
  | osc k p => cases p <;> simp only [paramRange] <;> decide
  | flt f p => cases p <;> simp only [paramRange] <;> decide
  | env e p => cases p <;> simp only [paramRange] <;> decide
  | glb p => cases p <;> simp only [paramRange] <;> decide

/-- Finite binary32 values that stand for the same rational are equal as values. -/
theorem f32_eqv_of_valueOf_eq {a b : F32} (ha : F32.isFinite a = true) (hb : F32.isFinite b = true)
    (h : valueOf a = valueOf b) : F32.eqv a b = true :=
  f32_eqv_iff.mpr ⟨not_isNaN_of_isFinite ha, not_isNaN_of_isFinite hb,
    le_antisymm ((valueOf_le_valueOf_iff a b).mp h.le) ((valueOf_le_valueOf_iff b a).mp h.ge)⟩

/-- A legal base value without contributions is its own effective value: adding `+0.0` is exact and the clamp has nothing
to do (R131). -/
theorem effValue_zero_eqv {base : F32} {pid : Pid}
    (h : inRange base (paramRange pid).1 (paramRange pid).2 = true) :
    F32.eqv (effValue base F32.zero pid) base = true := by
  obtain ⟨hlo, hhi⟩ := isFinite_paramRange pid
  have hbase : F32.isFinite base = true := isFinite_of_inRange hlo hhi h
  have hround := (addRounds base F32.zero hbase (by decide)).1
  rw [valueOf_zero, add_zero] at hround
  obtain ⟨hge, hle⟩ := valueOf_bounds_of_inRange h
  have hsum := inRange_of_roundsTo hround hlo hhi hge hle
  rw [effValue, clamp_of_inRange hsum]
  exact f32_eqv_of_valueOf_eq (isFinite_of_inRange hlo hhi hsum) hbase (valueOf_of_roundsTo_valueOf hbase hround)

/-- Settles O45: no slot contributes to an Idle voice, and the patch is still legal after the step. -/
theorem idleVoicesKeepBaseValues : Obligations.IdleVoicesKeepBaseValues := by
  intro s u t hpatch hticks hu h v pid i hi hs
  have hpatch' : PatchOk t := patchStaysInRange s t hpatch h
  obtain rfl := eq_renderStep_of_drain hticks hu h
  obtain ⟨hrange, -⟩ := hpatch' pid
  rw [renderStep_p] at hrange
  rw [renderStep_eff_getElem u v hi, localAcc, if_pos hs]
  exact effValue_zero_eqv hrange

/-! ### Disabled slots (R132) -/

/-- The lists differ only in what disabled slots hold. -/
abbrev SameEnabled : List Slot → List Slot → Prop :=
  List.Forall₂ (fun x y => x = y ∨ (x.en = false ∧ y.en = false))

theorem contributions_of_disabled (value : Source → F32) (pid : Pid) {x : Slot} (h : x.en = false) :
    contributions value pid [x] = [] := by
  simp [contributions, h]

theorem SameEnabled.contributions_eq {xs ys : List Slot} (h : SameEnabled xs ys) (value : Source → F32) (pid : Pid) :
    contributions value pid xs = contributions value pid ys := by
  induction h with
  | nil => rfl
  | @cons x y xs ys hxy _ ih =>
    have hhead : contributions value pid [x] = contributions value pid [y] := by
      obtain rfl | ⟨hx, hy⟩ := hxy
      · rfl
      · rw [contributions_of_disabled value pid hx, contributions_of_disabled value pid hy]
    rw [contributions_cons, hhead, ih, ← contributions_cons]

theorem SameEnabled.accumulate_eq {xs ys : List Slot} (h : SameEnabled xs ys) (value : Source → F32) (pid : Pid) :
    accumulate value pid xs = accumulate value pid ys := by
  rw [accumulate_eq_modSum, accumulate_eq_modSum, modSum, modSum, h.contributions_eq]

/-- The resolution reads of the slots what they sum up to (R130, R131). -/
theorem SameEnabled.resolveMatrix_with_slots {s : State} {slots : List Slot} (h : SameEnabled s.slots slots) :
    resolveMatrix { s with slots := slots } = { resolveMatrix s with slots := slots } := by
  have hvoice : resolveVoice s.p s.gsrc slots = resolveVoice s.p s.gsrc s.slots := by
    funext vc
    simp only [resolveVoice, localAcc, h.accumulate_eq]
  simp only [resolveMatrix, h.accumulate_eq, hvoice]

theorem tableFallbackCheck_with_slots (k : Fin 3) (s : State) (slots : List Slot) :
    tableFallbackCheck k { s with slots := slots } = { tableFallbackCheck k s with slots := slots } := by
  unfold tableFallbackCheck
  split <;> rfl

theorem blockPrepare_with_slots (s : State) (slots : List Slot) :
    blockPrepare { s with slots := slots } = { blockPrepare s with slots := slots } := by
  simp only [blockPrepare, tableFallbackCheck_with_slots]

theorem blockEnd_with_slots (s : State) (slots : List Slot) :
    blockEnd { s with slots := slots } = { blockEnd s with slots := slots } := by
  unfold blockEnd nanGuardAll countNans
  dsimp only
  split <;> rfl

/-- A rendering reads the slots in its resolution only (R86, R135). -/
theorem SameEnabled.renderStep_with_slots {s : State} {slots : List Slot} (h : SameEnabled s.slots slots) :
    renderStep { s with slots := slots } = { renderStep s with slots := slots } := by
  have hblock (u : State) : renderBlock { u with slots := slots } = { renderBlock u with slots := slots } := rfl
  simp only [renderStep, h.resolveMatrix_with_slots, blockPrepare_with_slots, hblock, blockEnd_with_slots]

/-- Settles O46: an empty queue drains to the state itself, whose rendering sees the enabled slots only. -/
theorem disabledSlotsContributeNothing : Obligations.DisabledSlotsContributeNothing := by
  intro s slots t₁ t₂ hq hticks hslots h₁ h₂
  obtain ⟨hempty, -⟩ := drainIsSequential
  obtain rfl := eq_renderStep_of_drain hticks (hempty (atTick s) hq) h₁
  obtain rfl := eq_renderStep_of_drain (s := { s with slots := slots }) hticks
    (hempty (atTick { s with slots := slots }) hq) h₂
  have hrender : renderStep (atTick { s with slots := slots }) = { renderStep (atTick s) with slots := slots } :=
    SameEnabled.renderStep_with_slots (s := atTick s) hslots
  rw [hrender]

end Sys2Proof.Machine
end

section
namespace Sys2Proof.Machine

/-! ## Every step completes, and rejections in the order of the checks (R137, R140, R167) -/

/-- A block step completes (R137). -/
theorem blockStep_completes (s : State) : Completes (blockStep s) := by
  obtain ⟨u, hu⟩ := queueDrain_next s
  exact ⟨renderStep u, by rw [blockStep, hu]⟩

/-- Every move of the host or of its clock completes (R137, R167). -/
theorem hostMove_completes (m : HostMove) (s : State) : Completes (hostMove m s) := by
  cases m with
  | push w => exact ⟨queuePush w s, rfl⟩
  | transport bs got => exact ⟨queueTransport bs got s, rfl⟩
  | readSnap | readOut => exact ⟨s, rfl⟩
  | tick => exact blockStep_completes s

/-- Settles O8: a step is the oldest listed move, or a block step if none is listed. -/
theorem everyStepCompletes : Obligations.EveryStepCompletes := by
  intro s
  cases hh : s.host with
  | nil => rw [step_nil hh]; exact blockStep_completes s
  | cons m rest => rw [step_cons hh]; exact hostMove_completes m { s with host := rest }

/-- Settles O21: a reserved opcode and RSV bits are found by the decoder, so before any check of the decoded command,
and of these the first that fails is recorded. -/
theorem rejectionsFollowCheckOrder : Obligations.RejectionsFollowCheckOrder := by
  intro w s
  obtain ⟨hreserved, -⟩ := malformedWordsAreRejected w s
  refine ⟨hreserved, fun _ hrsv => apply_of_error hrsv s, fun i c hdec hfirst => ?_⟩
  calc apply w s = exec i s := by rw [apply, hdec]
    _ = .next (rejectedState c s) := exec_of_firstCode hfirst

end Sys2Proof.Machine
end

section
namespace Sys2Proof.Machine

/-! ## The reset values (R154) -/

/-- Every base register after reset has its own reset value. -/
@[simp] theorem readParam_reset (pid : Pid) : readParam State.reset.p pid = paramReset State.reset.cfg pid :=
  readParam_paramRegs _ pid

/-- Every voice after reset is `voiceReset`. -/
@[simp] theorem reset_voice (v : Fin 32) : State.reset.voices[v.val] = voiceReset State.reset.cfg :=
  resetFor_voice _ v

/-- Instance `i` of an oscillator starts at phase `i / 7` (R35). -/
@[simp] theorem getElem_resetPhases (i : Fin 7) :
    resetPhases[i.val] = F32.div (F32.ofNat i.val) (0x40E00000#32) := by
  rw [resetPhases, getElem_vmapIdx]

/-- The effective registers of a voice after reset are copies of the base registers' reset values (R29). -/
theorem voiceReset_eff_getElem (c : Params) {pid : Pid} {i : Fin 40} (h : effIndex pid = some i) :
    (voiceReset c).eff[i.val] = paramReset c pid :=
  effRegs_getElem (paramReset c) h

/-- Settles O37, table row by table row: each row is read off `paramReset`, `voiceReset` or the field itself. -/
theorem resetValues : Obligations.ResetValues := by
  simp only [Obligations.ResetValues, readParam_reset, reset_voice]
  refine ⟨fun k => ?osc, fun f => ?flt, fun e => ?env, rfl, rfl, rfl, fun i => ?gsrc, fun v => ?voice,
    rfl, rfl, rfl, rfl, rfl, rfl, fun v => ?snap, rfl, rfl⟩
  case osc => exact ⟨rfl, rfl, rfl, rfl, rfl, rfl, rfl, rfl, rfl, rfl⟩
  case flt => exact ⟨rfl, rfl, rfl⟩
  case env => exact ⟨rfl, rfl, rfl, rfl, rfl, rfl, rfl⟩
  case gsrc => exact getElem_vconst _ _ _
  case voice =>
    refine ⟨rfl, rfl, rfl, rfl, rfl, rfl, rfl, fun k i => ?phases, fun k => ?last, fun f => ?filters, fun e => ?envelopes,
      fun _ _ => voiceReset_eff_getElem _, fun i => getElem_vconst _ _ _, getElem_vconst _ _ _⟩
    case phases => simp [voiceReset, oscReset]
    case last => simp [voiceReset, oscReset]
    case filters => simp [voiceReset, fltReset]
    case envelopes => simp [voiceReset, envReset]
  case snap =>
    refine ⟨?stage, fun e => ?level⟩
    case stage => exact getElem_vconst _ _ _
    case level => simp [State.reset, State.resetFor, snapReset, voiceReset, envReset]

end Sys2Proof.Machine
end
